-- ==== Sys2Proof/Word.lean ====
section
/-! DEFINITION. The word types of the block: what the spec treats as bits. Counts, lengths, indexes and
wire coordinates under computation are naturals (00_scope.md R12). -/

namespace Sys2Proof

/-- A byte on the wire, in a payload or in a request field (20_memory.md R67). -/
abbrev Byte := BitVec 8

/-- A request word (30_encoding.md R90). -/
abbrev RequestWord := BitVec 64

/-- A response word (30_encoding.md R101). -/
abbrev ResponseWord := BitVec 32

/-- A controller column or row, 16 bits on the wire (20_memory.md R54). -/
abbrev Coord := BitVec 16

/-- A 12-bit 4-4-4 RGB pixel (20_memory.md R54, R75). -/
abbrev Pixel := BitVec 12

/-- One entropy-buffer entry (10_state.md R31). -/
abbrev Sample := BitVec 3

end Sys2Proof
end

