-- ==== Sys2Proof/Config.lean ====
section
/-! DEFINITION. The configuration of the block (00_scope.md R9, R10), the free values the spec leaves open, and the
host's layout values. The configuration is a record carried by State and written by nothing (assumption log 14), so a
claim about every state is a claim about every configuration. -/

namespace Sys2Proof

/-- The receiver parameter `RX_SCAN` (20_memory.md R76). The spec gives the pointer's movement for row-major order
only; `other` stands for every other order, and the pointer is then a free value (assumption log 17). -/
inductive RxScan where
  | rowMajor
  | other
  deriving DecidableEq, Repr

/-- The receiver parameter `RX_WRAP` (20_memory.md R76): what the pointer does past the window's last pixel. `other`
stands for every behaviour but the default; the pointer is then a free value (assumption log 17). -/
inductive RxWrap where
  | toStart
  | other
  deriving DecidableEq, Repr

/-- `LINE_POLARITY`: for each output line the electrical level that stands for its logical `true`
(10_state.md R23-R25). -/
structure LinePolarity where
  cmd : Bool
  cs  : Bool
  rst : Bool
  deriving DecidableEq, Repr, Inhabited

/-- The implementation parameters of the block and of its reference receiver (00_scope.md R9, R10).
`SAMPLE_BITS` = 3 and `REJECT_VALUE` = 7 are structural and no parameters. -/
structure Config where
  panelW        : Nat
  panelH        : Nat
  marginX       : Nat
  marginY       : Nat
  k             : Nat
  fallback      : Byte
  cmdCaset      : Byte
  cmdRaset      : Byte
  cmdRamwr      : Byte
  cmdSlpout     : Byte
  cmdColmod     : Byte
  cmdMadctl     : Byte
  cmdDispon     : Byte
  colmodRgb444  : Byte
  madctlParam   : Byte
  dRstHold      : Nat
  dRstSettle    : Nat
  dSlpout       : Nat
  dDispon       : Nat
  payloadMax    : Nat
  noiseChannels : List Byte
  noiseSampleW  : Nat
  linePolarity  : LinePolarity
  rxScan        : RxScan
  rxWrap        : RxWrap
  tickPeriod    : Nat
  deriving DecidableEq, Repr

/-- The constraints a configuration must meet (00_scope.md R9, and the range of `PAYLOAD_MAX` in R10). A noise sample
has at least the one bit that is used (41_entropy.md R166). -/
def Config.wf (c : Config) : Bool :=
  decide (1 ≤ c.k) && decide (c.k ≤ 255) &&
  decide (c.marginX + c.panelW ≤ 65536) && decide (c.marginY + c.panelH ≤ 65536) &&
  decide (c.payloadMax < 2 ^ 24) && decide (1 ≤ c.noiseSampleW)

/-! ### Parameters the spec leaves OPEN (00_scope.md R10): constants without a body (assumption log 16) -/

/-- `MADCTL_PARAM`, the fixed memory-access-control byte no source gives (92_eei_decisions.md D12). -/
opaque Config.openMadctlParam : Byte
/-- `D_RST_HOLD` (92_eei_decisions.md D13). -/
opaque Config.openRstHold : Nat
/-- `D_RST_SETTLE` (92_eei_decisions.md D13). -/
opaque Config.openRstSettle : Nat
/-- `D_SLPOUT` (92_eei_decisions.md D13). -/
opaque Config.openSlpout : Nat
/-- `D_DISPON` (92_eei_decisions.md D13). -/
opaque Config.openDispon : Nat
/-- One less than `NOISE_SAMPLE_W` (92_eei_decisions.md D23). -/
opaque Config.openSampleWidthLess1 : Nat
/-- `LINE_POLARITY` (92_eei_decisions.md D14). -/
opaque Config.openLinePolarity : LinePolarity
/-- `TICK_PERIOD` (92_eei_decisions.md D32). -/
opaque Config.openTickPeriod : Nat

/-! ### Free values -/

/-- The receiver's unconstrained 16-bit registers after a panel reset, and its pointer where the spec gives no
movement: draw `n`, register `r` (20_memory.md R76, R80; assumption logs 6, 17). -/
opaque Config.freeRxRegister : Nat → Nat → Coord

/-- The pixels of the controller's memory where the spec allows any value: draw `n`, key `k` of a cell (20_memory.md R71,
R77, R80; 93_implementation_defined.md U1, U4; assumption logs 5, 6, 19). -/
opaque Config.freePixel : Nat → Nat → Pixel

/-- The value of the sample that the noise source makes ready under NOISE_FAIR: draw `n` (10_state.md R41,
60_exceptions.md R227; assumption log 10). -/
opaque Config.freeNoiseSample : Nat → Nat

/-- The configuration of `State.reset`: the reference values (00_scope.md R9), the spec's defaults for the command
bytes (R10; PRESUMED, assumption log 15), opaque constants for the open parameters, and the largest `PAYLOAD_MAX` and
the `NOISE_CHANNELS` of 95_test_vectors.md (DESIGN CHOICE, assumption log 16). -/
def Config.reference : Config where
  panelW        := 128
  panelH        := 128
  marginX       := 2
  marginY       := 3
  k             := 18
  fallback      := 3
  cmdCaset      := 0x2A
  cmdRaset      := 0x2B
  cmdRamwr      := 0x2C
  cmdSlpout     := 0x11
  cmdColmod     := 0x3A
  cmdMadctl     := 0x36
  cmdDispon     := 0x29
  colmodRgb444  := 0x03
  madctlParam   := Config.openMadctlParam
  dRstHold      := Config.openRstHold
  dRstSettle    := Config.openRstSettle
  dSlpout       := Config.openSlpout
  dDispon       := Config.openDispon
  payloadMax    := 2 ^ 24 - 1
  noiseChannels := [0, 1, 2, 3, 4, 5, 6, 7]
  noiseSampleW  := Config.openSampleWidthLess1 + 1
  linePolarity  := Config.openLinePolarity
  rxScan        := .rowMajor
  rxWrap        := .toStart
  tickPeriod    := Config.openTickPeriod

/-! ### The host's layout values (45_host_sequences.md R192-R199), arguments of the host sequences -/

/-- The seven shape kinds and the empty cell (45_host_sequences.md R192, R199). -/
inductive PieceKind where
  | shape (n : Fin 7)
  | empty
  deriving DecidableEq, Repr

/-- A logical window in panel pixel coordinates (00_scope.md R14). -/
structure Window where
  x  : Nat
  y  : Nat
  wd : Nat
  ht : Nat
  deriving DecidableEq, Repr

/-- The values the host's renderer takes as given (00_scope.md R9, R10; 92_eei_decisions.md D33, D36). It is not state:
no field of `State` holds it (assumption log 23). -/
structure HostLayout where
  cellSize     : Nat := 5
  digitPitch   : Nat := 5
  glyphH       : Nat := 8
  scoreMax     : Nat := 999
  fieldOffsetX : Nat
  fieldOffsetY : Nat
  shapeColor   : Fin 7 → Byte × Byte × Byte
  digits       : Fin 10 → List Byte
  rightmostX   : Nat → Nat → Nat
  eraseWindow  : Nat → Nat → Window
  scoreAnchor  : Nat × Nat
  levelAnchor  : Nat × Nat
  levelMax     : Nat
  scoreLabel   : Window × List Byte
  levelLabel   : Window × List Byte
  primeTarget  : Nat

/-- The constraints on the layout values in a configuration: `PRIME_TARGET` is in 0..K (00_scope.md R10;
45_host_sequences.md R198), every glyph fits a payload (R193), and no digit position of the two numbers needs to be
negative (R194). -/
def HostLayout.wf (c : Config) (l : HostLayout) : Bool :=
  decide (l.primeTarget ≤ c.k) &&
  ([0, 1, 2, 3, 4, 5, 6, 7, 8, 9] : List (Fin 10)).all (fun d => decide ((l.digits d).length ≤ c.payloadMax)) &&
  decide (l.scoreLabel.2.length ≤ c.payloadMax) && decide (l.levelLabel.2.length ≤ c.payloadMax) &&
  [1, 2, 3].all (fun n => decide (l.digitPitch * (n - 1) ≤ l.rightmostX l.scoreAnchor.1 n)) &&
  [1, 2, 3].all (fun n => decide (l.digitPitch * (n - 1) ≤ l.rightmostX l.levelAnchor.1 n))

end Sys2Proof
end

