-- ==== Sys2Proof/Syntax.lean ====
section
/-! DEFINITION. The eleven requests of the opcode map (30_encoding.md R94), one constructor each, and the request as
the port receives it (R90). -/

namespace Sys2Proof

/-- A decoded request: opcode and operands (30_encoding.md R91, R92). The payload of a format-D request is an operand
of it (R97, 40_framer.md R125); its length is the field `LEN`. -/
inductive Instr where
  /-- SEND_CMD (40_framer.md R123). -/
  | sendCmd (byte : Byte)
  /-- SEND_DATA (40_framer.md R125). -/
  | sendData (payload : List Byte) (rep : BitVec 32)
  /-- SET_WINDOW (40_framer.md R128). -/
  | setWindow (x y wd ht : BitVec 12)
  /-- WRITE_PIXELS (40_framer.md R133). -/
  | writePixels (payload : List Byte) (rep : BitVec 32)
  /-- INIT (40_framer.md R140). -/
  | init
  /-- DISPLAY_ON (40_framer.md R144). -/
  | displayOn
  /-- EX_ADD_BIT (41_entropy.md R161). -/
  | exAddBit (bit : Bool)
  /-- EX_ADD_NOISE (41_entropy.md R166): `two` is the field `XOR`. -/
  | exAddNoise (two : Bool) (chA chB : Byte)
  /-- EX_NEXT (41_entropy.md R170). -/
  | exNext
  /-- EX_AVAILABLE (41_entropy.md R174). -/
  | exAvailable
  /-- EX_CAPACITY (41_entropy.md R176). -/
  | exCapacity
  deriving DecidableEq, Repr

/-- A request on the port: the 64-bit word and the payload that comes with it, empty when none is given
(30_encoding.md R90, R97). -/
structure Request where
  word    : RequestWord
  payload : List Byte
  deriving DecidableEq, Repr

end Sys2Proof
end

