-- ==== Sys2Proof/WellFormed.lean ====
section
/-! DEFINITION. Which requests are well formed: the operand values that some request word and payload encode, in a
given configuration (30_encoding.md R91, R97, R99). -/

namespace Sys2Proof

/-- A payload fits its request: its length is a 24-bit `LEN` and at most `PAYLOAD_MAX` (30_encoding.md R97). -/
def payloadFits (c : Config) (p : List Byte) : Bool :=
  decide (p.length < 2 ^ 24) && decide (p.length ≤ c.payloadMax)

/-- A channel number is valid: it is in `NOISE_CHANNELS` (30_encoding.md R99). -/
def channelValid (c : Config) (ch : Byte) : Bool := c.noiseChannels.contains ch

/-- `CH_B` of EX_ADD_NOISE: a valid channel with `XOR`, zero without (30_encoding.md R91, R99). -/
def secondChannelValid (c : Config) (two : Bool) (chB : Byte) : Bool :=
  if two then channelValid c chB else decide (chB = 0)

/-- The well-formed requests of a configuration. -/
def Instr.wf (c : Config) : Instr → Bool
  | .sendCmd _            => true
  | .sendData p _         => payloadFits c p
  | .setWindow _ _ _ _    => true
  | .writePixels p _      => payloadFits c p
  | .init                 => true
  | .displayOn            => true
  | .exAddBit _           => true
  | .exAddNoise two a b   => channelValid c a && secondChannelValid c two b
  | .exNext               => true
  | .exAvailable          => true
  | .exCapacity           => true

end Sys2Proof
end

