-- ==== Sys2Proof/Decode.lean ====
section
/-! DEFINITION. The decoder of requests, total on every word and payload and refusing by name (30_encoding.md R90-R100),
and after it the encoder, written from the same field tables. -/

namespace Sys2Proof

/-! ### Fields -/

/-- The field `w[lo+n-1 : lo]`, an unsigned number (00_scope.md R11; 30_encoding.md R92). -/
def slice (w : RequestWord) (lo n : Nat) : Nat := w.toNat / 2 ^ lo % 2 ^ n

/-- The six formats (30_encoding.md R91). -/
inductive Format where
  | none
  | byte
  | data
  | window
  | bit
  | channel
  deriving DecidableEq, Repr

/-- The opcodes of the opcode map (30_encoding.md R94). -/
inductive Opcode where
  | sendCmd
  | sendData
  | setWindow
  | writePixels
  | init
  | displayOn
  | exAddBit
  | exAddNoise
  | exNext
  | exAvailable
  | exCapacity
  deriving DecidableEq, Repr

/-- The opcode map (30_encoding.md R94); every other value is reserved (R100). -/
def opcodeOf (op : Nat) : Option Opcode :=
  match op with
  | 0x01 => some .sendCmd
  | 0x02 => some .sendData
  | 0x03 => some .setWindow
  | 0x04 => some .writePixels
  | 0x05 => some .init
  | 0x06 => some .displayOn
  | 0x10 => some .exAddBit
  | 0x11 => some .exAddNoise
  | 0x12 => some .exNext
  | 0x13 => some .exAvailable
  | 0x14 => some .exCapacity
  | _    => none

/-- The format of each opcode (30_encoding.md R94). -/
def formatOf : Opcode → Format
  | .sendCmd     => .byte
  | .sendData    => .data
  | .setWindow   => .window
  | .writePixels => .data
  | .init        => .none
  | .displayOn   => .none
  | .exAddBit    => .bit
  | .exAddNoise  => .channel
  | .exNext      => .none
  | .exAvailable => .none
  | .exCapacity  => .none

/-- The reserved-zero bits of a format are all 0 (30_encoding.md R91). `CH_B` with `XOR = 0` is checked with the
channels, as R99 orders it. -/
def reservedClear (f : Format) (w : RequestWord) : Bool :=
  match f with
  | .none    => slice w 0 56 == 0
  | .byte    => slice w 8 48 == 0
  | .data    => true
  | .window  => slice w 48 8 == 0
  | .bit     => slice w 1 55 == 0
  | .channel => slice w 17 39 == 0

/-- The opcode carries a payload (30_encoding.md R97). -/
def carriesPayload (f : Format) : Bool :=
  match f with
  | .data => true
  | _     => false

/-! ### Decode -/

/-- Why a request is illegal: the checks of 30_encoding.md R99, in their order. Every one takes ILLEGAL_REQUEST. -/
inductive DecodeError where
  | reservedOpcode
  | reservedBits
  | payloadLength
  | payloadTooLong
  | unexpectedPayload
  | secondChannelNotZero
  | channelAInvalid
  | channelBInvalid
  /-- Fewer than the eight bytes of a request word, when a request is delivered as bytes (20_memory.md R63). -/
  | shortWord
  deriving DecidableEq, Repr

/-- The payload checks of 30_encoding.md R99. -/
def payloadError (c : Config) (f : Format) (w : RequestWord) (p : List Byte) : Option DecodeError :=
  if carriesPayload f then
    if p.length ≠ slice w 32 24 then some .payloadLength
    else if c.payloadMax < slice w 32 24 then some .payloadTooLong
    else none
  else if p ≠ [] then some .unexpectedPayload
  else none

/-- The channel checks of 30_encoding.md R99. -/
def channelError (c : Config) (op : Opcode) (w : RequestWord) : Option DecodeError :=
  if op ≠ .exAddNoise then none
  else if slice w 16 1 = 0 ∧ slice w 0 8 ≠ 0 then some .secondChannelNotZero
  else if channelValid c (BitVec.ofNat 8 (slice w 8 8)) = false then some .channelAInvalid
  else if slice w 16 1 = 1 ∧ channelValid c (BitVec.ofNat 8 (slice w 0 8)) = false then some .channelBInvalid
  else none

/-- The operands of each opcode (30_encoding.md R91, R92). -/
def operandsOf (op : Opcode) (w : RequestWord) (p : List Byte) : Instr :=
  match op with
  | .sendCmd     => .sendCmd (BitVec.ofNat 8 (slice w 0 8))
  | .sendData    => .sendData p (BitVec.ofNat 32 (slice w 0 32))
  | .setWindow   => .setWindow (BitVec.ofNat 12 (slice w 36 12)) (BitVec.ofNat 12 (slice w 24 12))
                      (BitVec.ofNat 12 (slice w 12 12)) (BitVec.ofNat 12 (slice w 0 12))
  | .writePixels => .writePixels p (BitVec.ofNat 32 (slice w 0 32))
  | .init        => .init
  | .displayOn   => .displayOn
  | .exAddBit    => .exAddBit (slice w 0 1 == 1)
  | .exAddNoise  => .exAddNoise (slice w 16 1 == 1) (BitVec.ofNat 8 (slice w 8 8)) (BitVec.ofNat 8 (slice w 0 8))
  | .exNext      => .exNext
  | .exAvailable => .exAvailable
  | .exCapacity  => .exCapacity

/-- Decode of a request word and its payload (30_encoding.md R99): the first failing check decides. -/
def decode (c : Config) (w : RequestWord) (p : List Byte) : Except DecodeError Instr :=
  match opcodeOf (slice w 56 8) with
  | none => .error .reservedOpcode
  | some op =>
    if reservedClear (formatOf op) w then
      match payloadError c (formatOf op) w p with
      | some e => .error e
      | none =>
        match channelError c op w with
        | some e => .error e
        | none   => .ok (operandsOf op w p)
    else .error .reservedBits

/-- The number whose base-256 digits are `bs`, most significant first. -/
def bytesToNat (bs : List Byte) : Nat := bs.foldl (fun n b => n * 256 + b.toNat) 0

/-- A request delivered as bytes: the word most-significant byte first (20_memory.md R63), then the payload. -/
def requestOfBytes (bs : List Byte) : Option Request :=
  if bs.length < 8 then none
  else some { word := BitVec.ofNat 64 (bytesToNat (bs.take 8)), payload := bs.drop 8 }

/-- Decode of any byte string, the request delivered as bytes (20_memory.md R63; 30_encoding.md R99). -/
def decodeBytes (c : Config) (bs : List Byte) : Except DecodeError Instr :=
  match requestOfBytes bs with
  | none   => .error .shortWord
  | some r => decode c r.word r.payload

/-! ### Encode -/

/-- The opcode number of a request (30_encoding.md R94). -/
def opcodeNumber : Instr → Nat
  | .sendCmd _          => 0x01
  | .sendData _ _       => 0x02
  | .setWindow _ _ _ _  => 0x03
  | .writePixels _ _    => 0x04
  | .init               => 0x05
  | .displayOn          => 0x06
  | .exAddBit _         => 0x10
  | .exAddNoise _ _ _   => 0x11
  | .exNext             => 0x12
  | .exAvailable        => 0x13
  | .exCapacity         => 0x14

/-- The operand fields `W[55:0]` of a request (30_encoding.md R91). -/
def operandFields : Instr → Nat
  | .sendCmd b            => b.toNat
  | .sendData p r         => p.length * 2 ^ 32 + r.toNat
  | .setWindow x y w h    => x.toNat * 2 ^ 36 + y.toNat * 2 ^ 24 + w.toNat * 2 ^ 12 + h.toNat
  | .writePixels p r      => p.length * 2 ^ 32 + r.toNat
  | .init                 => 0
  | .displayOn            => 0
  | .exAddBit b           => b.toNat
  | .exAddNoise two a b   => two.toNat * 2 ^ 16 + a.toNat * 2 ^ 8 + b.toNat
  | .exNext               => 0
  | .exAvailable          => 0
  | .exCapacity           => 0

/-- The payload a request carries (30_encoding.md R97). -/
def payloadOf : Instr → List Byte
  | .sendData p _    => p
  | .writePixels p _ => p
  | _                => []

/-- The request word and payload of a well-formed request (30_encoding.md R90, R91, R94). -/
def encode (i : Instr) : Request where
  word    := BitVec.ofNat 64 (opcodeNumber i * 2 ^ 56 + operandFields i)
  payload := payloadOf i

/-- The `n` low bytes of `v`, least significant first. -/
def lowBytes : Nat → Nat → List Byte
  | 0, _     => []
  | n + 1, v => BitVec.ofNat 8 v :: lowBytes n (v / 256)

/-- A request as the eight bytes of its word, most-significant first, and its payload (20_memory.md R63). -/
def bytesOfRequest (r : Request) : List Byte := (lowBytes 8 r.word.toNat).reverse ++ r.payload

/-! ### The opcode table's numbering -/

/-- How many payload bytes follow the word: `LEN` where the word's opcode carries a payload (30_encoding.md R97), else
the whole bytes beyond the word's 64 bits, of which a table row has none. -/
def tablePayloadLength (nbits : Nat) (w : RequestWord) : Nat :=
  match opcodeOf (slice w 56 8) with
  | some op => if carriesPayload (formatOf op) then slice w 32 24 else (nbits - 64) / 8
  | none    => (nbits - 64) / 8

/-- The request whose bits the opcode table numbers `w`: bits 63..0 are the request word, and payload byte `i` is bits
`64+8i+7 .. 64+8i`. Bits at and above `nbits` are 0. -/
def tableRequest (nbits w : Nat) : Request :=
  let v := w % 2 ^ nbits
  let word : RequestWord := BitVec.ofNat 64 v
  { word := word, payload := lowBytes (tablePayloadLength nbits word) (v / 2 ^ 64) }

/-- The request the decoder reads from a word of the opcode table, in the configuration of `State.reset`: the request
is laid out as bytes and given to the decoder. -/
def decodeTableWord (nbits w : Nat) : Option Instr :=
  match decodeBytes Config.reference (bytesOfRequest (tableRequest nbits w)) with
  | .ok i    => some i
  | .error _ => none

end Sys2Proof
end

