-- ==== Sys2Proof/Machine/Payload.lean ====
section
/-! DEFINITION. The contents of the payload buffer `PL_BUF` (10_state.md R28; 20_memory.md R53): `PAYLOAD_MAX` bytes, each
of which has a value. They are held as a list in one canonical form: its entry `i` is byte `i`, every byte past its end
is 0, and its last entry is not 0, so that equal buffers are equal lists (assumption log 2). -/

namespace Sys2Proof.Machine

/-- The canonical form: the zero bytes at the end taken off. -/
def trimBytes : List Byte → List Byte
  | []     => []
  | b :: l => if b = 0 ∧ trimBytes l = [] then [] else b :: trimBytes l

/-- Byte `i` of the buffer. -/
def byteAt : List Byte → Nat → Byte
  | [], _         => 0
  | b :: _, 0     => b
  | _ :: l, i + 1 => byteAt l i

/-- The first `n` bytes of the buffer. -/
def frontBytes : Nat → List Byte → List Byte
  | 0, _          => []
  | n + 1, []     => 0 :: frontBytes n []
  | n + 1, b :: l => b :: frontBytes n l

/-- The buffer with a payload loaded at its front, the other bytes as they were (30_encoding.md R97). -/
def loadBytes (p buf : List Byte) : List Byte := trimBytes (p ++ buf.drop p.length)

end Sys2Proof.Machine
end

