-- ==== Sys2Proof/Machine/State.lean ====
section
/-! DEFINITION. The state of the block and of the external agents a model carries beside it (10_state.md), as plain data,
the reasons a step can stop, and the machine right after reset (10_state.md R45). -/

namespace Sys2Proof.Machine

/-! ### The parts of the state -/

/-- The values of `FAULT` (10_state.md R21, 60_exceptions.md R210). -/
inductive FaultCode where
  | none
  | illegalRequest
  | notReady
  | alreadyInit
  | invalidWindow
  deriving DecidableEq, Repr

/-- The values of `FR_INIT` (10_state.md R22). -/
inductive FrInit where
  | uninit
  | ready
  deriving DecidableEq, Repr

/-- The sequencer position `SEQ` (10_state.md R26): idle, or a request in progress, the number of primitives of its
pseudocode already performed, and its one local variable, the noise bit of EX_ADD_NOISE. -/
inductive Sequencer where
  | idle
  | busy (req : Instr) (pos : Nat) (bit : Bool)
  deriving DecidableEq, Repr

/-- A bus event (20_memory.md R55). -/
inductive BusEvent where
  | wait
  | dc (b : Bool)
  | cs (b : Bool)
  | tx (v : Byte)
  | rst (b : Bool)
  | dly (n : Nat)
  deriving DecidableEq, Repr

/-- The extractor's six fields, one atomic unit (10_state.md R31-R36; 20_memory.md R67). -/
structure Extractor where
  buf   : List Sample
  head  : Nat
  tail  : Nat
  avail : Nat
  cand  : BitVec 3
  nbits : Nat
  deriving DecidableEq, Repr

/-- The cells of the controller's pixel memory that hold a pixel written since the memory was last unconstrained, as
(key, pixel) pairs with strictly rising keys (20_memory.md R54, R71). -/
abbrev Memory := List (Nat × Pixel)

/-- The reference receiver's state (20_memory.md R71). `RX_RAM` has a pixel in every cell: the listed one in `ram`, or else
the free value of draw `base` (assumption log 5). `base` and `draws`, the count of free values drawn, are the model's own
(assumption log 6). -/
structure Receiver where
  cmd   : Option Byte
  args  : List Byte
  xs    : Coord
  xe    : Coord
  ys    : Coord
  ye    : Coord
  cx    : Coord
  cy    : Coord
  pix   : List Byte
  ram   : Memory
  base  : Nat
  draws : Nat
  deriving DecidableEq, Repr

/-- A sample the noise source has made ready on a channel and that has not been read (10_state.md R41). -/
structure NoiseSample where
  channel : Byte
  value   : Nat
  deriving DecidableEq, Repr

/-- The values the spec leaves free at block reset (10_state.md R45; 20_memory.md R80), as one draw. A list shorter than
its buffer leaves the buffer's other entries 0. -/
structure ResetDraw where
  chBusy       : Bool
  tickDeadline : Bool
  exBuf        : List Sample
  plBuf        : List Byte
  xs           : Coord
  xe           : Coord
  ys           : Coord
  ye           : Coord
  cx           : Coord
  cy           : Coord
  deriving DecidableEq, Repr

/-- A move of an agent outside the block (00_scope.md R5). -/
inductive EnvMove where
  /-- The SerialByteChannel completes a byte transfer (60_exceptions.md R225). -/
  | channelDone
  /-- The noise source makes a channel ready with a sample (60_exceptions.md R227). -/
  | sampleReady (ch : Byte) (v : Nat)
  /-- The tick source's period elapses (60_exceptions.md R229). -/
  | tickElapsed
  /-- The host clears the deadline flag (60_exceptions.md R229). -/
  | clearDeadline
  /-- The host issues a request (60_exceptions.md R235). -/
  | issue (r : Request)
  /-- Block reset is applied, with the free values it draws (70_reset_and_hazards.md R240). -/
  | reset (d : ResetDraw)
  deriving DecidableEq, Repr

/-! ### The state -/

/-- The machine's state. The spec's elements carry the spec's names in their docstrings; `port`, `env`, `chanFair`,
`noiseFair` and `noiseDraws` are the model's own (INVENTORY.md). -/
structure State where
  /-- The configuration (00_scope.md R9, R10); nothing writes it. -/
  cfg          : Config
  /-- `FAULT` (10_state.md R21). -/
  fault        : FaultCode
  /-- `FR_INIT` (10_state.md R22). -/
  frInit       : FrInit
  /-- `LINE_CMD` (10_state.md R23). -/
  lineCmd      : Bool
  /-- `LINE_CS` (10_state.md R24). -/
  lineCs       : Bool
  /-- `LINE_RST` (10_state.md R25). -/
  lineRst      : Bool
  /-- `SEQ` (10_state.md R26). -/
  seq          : Sequencer
  /-- `RESP` (10_state.md R27). -/
  resp         : ResponseWord
  /-- `PL_BUF` (10_state.md R28): its `PAYLOAD_MAX` bytes, byte `i` being `byteAt plBuf i`. -/
  plBuf        : List Byte
  /-- `PL_LEN` (10_state.md R28). -/
  plLen        : Nat
  /-- `EX_BUF`, `EX_HEAD`, `EX_TAIL`, `EX_AVAIL`, `EX_CAND`, `EX_NBITS` (10_state.md R31-R36). -/
  ex           : Extractor
  /-- `CH_BUSY` (10_state.md R39). -/
  chBusy       : Bool
  /-- `BUS_LOG`, oldest first (10_state.md R40). -/
  busLog       : List BusEvent
  /-- The noise source: samples ready and unread, oldest first (10_state.md R41). -/
  noise        : List NoiseSample
  /-- `TICK_DEADLINE` (10_state.md R42). -/
  tickDeadline : Bool
  /-- The reference receiver (10_state.md R43; 20_memory.md R71). -/
  rx           : Receiver
  /-- Requests the host has issued and the port has not accepted, oldest first (20_memory.md R51, R64). -/
  port         : List Request
  /-- The coming moves of the external agents, earliest first (00_scope.md R5, R13; assumption log 8). -/
  env          : List EnvMove
  /-- The run's assumption CHANNEL_FAIR (60_exceptions.md R225; assumption log 9). -/
  chanFair     : Bool
  /-- The run's assumption NOISE_FAIR (60_exceptions.md R227; assumption log 9). -/
  noiseFair    : Bool
  /-- How many free noise samples have been drawn (assumption log 10). -/
  noiseDraws   : Nat
  deriving DecidableEq, Repr

/-! ### Why a step can stop -/

/-- The stuck states of the spec. No request's meaning raises one; `step` answers one where the spec says that the
block has no step. -/
inductive Fault where
  /-- `FAULT` is set and nothing else is scheduled: the port accepts no request until block reset
  (60_exceptions.md R213; 93_implementation_defined.md U14). Raised by `step`. Safe: the spec gives no step. -/
  | halted (f : FaultCode)
  /-- The sequencer is in `Wait()`, nothing is scheduled, and the channel never clears busy (60_exceptions.md R225;
  93_implementation_defined.md U12). Raised by `step`. Safe: the spec gives no step. -/
  | channelHang
  /-- The sequencer awaits a noise channel that never becomes ready (60_exceptions.md R227;
  93_implementation_defined.md U13). Raised by `step`. Safe: the spec gives no step. -/
  | noiseHang (ch : Byte)
  /-- `SEQ` is past the end of its request's pseudocode: a position no run reaches, since every pseudocode ends in
  `respond` or `raise` (10_state.md R26). Raised by `step`. Safe. -/
  | offProgram
  deriving DecidableEq, Repr

/-- Requests without a meaning. -/
inductive Refusal where
  /-- The request has no meaning in the model yet. Raised by `exec`'s arms only; no arm raises it now. Safe. -/
  | notModelled (mnemonic : String)
  deriving DecidableEq, Repr

/-! ### Reset -/

/-- The extractor after reset (10_state.md R45): `K` entries, whatever the draw gives for them, and everything else 0. -/
def Extractor.afterReset (k : Nat) (entries : List Sample) : Extractor where
  buf   := (entries ++ List.replicate k 0).take k
  head  := 0
  tail  := 0
  avail := 0
  cand  := 0
  nbits := 0

/-- The reference receiver after reset (20_memory.md R80): the registers as drawn, and a free value in every cell of the
pixel memory, whose draw is the first one. -/
def Receiver.afterReset (d : ResetDraw) : Receiver where
  cmd   := none
  args  := []
  xs    := d.xs
  xe    := d.xe
  ys    := d.ys
  ye    := d.ye
  cx    := d.cx
  cy    := d.cy
  pix   := []
  ram   := []
  base  := 0
  draws := 1

/-- The machine after block reset in a configuration, for one draw of the values the spec leaves free
(10_state.md R45; 70_reset_and_hazards.md R240), with an empty port, nothing scheduled and both fairness assumptions. -/
def State.resetWith (c : Config) (d : ResetDraw) : State where
  cfg          := c
  fault        := .none
  frInit       := .uninit
  lineCmd      := false
  lineCs       := false
  lineRst      := true
  seq          := .idle
  resp         := 0
  plBuf        := trimBytes (d.plBuf.take c.payloadMax)
  plLen        := 0
  ex           := Extractor.afterReset c.k d.exBuf
  chBusy       := d.chBusy
  busLog       := []
  noise        := []
  tickDeadline := d.tickDeadline
  rx           := Receiver.afterReset d
  port         := []
  env          := []
  chanFair     := true
  noiseFair    := true
  noiseDraws   := 0

/-- The draw of `State.reset`: false and zero throughout, every byte of the payload buffer too (DESIGN CHOICE, assumption
logs 1-5). -/
def ResetDraw.named : ResetDraw where
  chBusy       := false
  tickDeadline := false
  exBuf        := []
  plBuf        := []
  xs           := 0
  xe           := 0
  ys           := 0
  ye           := 0
  cx           := 0
  cy           := 0

/-- The machine right after reset, in the reference configuration. -/
def State.reset : State := State.resetWith Config.reference ResetDraw.named

end Sys2Proof.Machine
end

