-- ==== Sys2Proof/Machine/Flags.lean ====
section
/-! DEFINITION. The status bits a program can observe (10_state.md R38), the fault codes (60_exceptions.md R210) and the
response word (30_encoding.md R101). The block has no condition-code register. -/

namespace Sys2Proof.Machine

/-! ### Fault codes -/

/-- The 4-bit code of a fault (60_exceptions.md R210). -/
def FaultCode.code : FaultCode → BitVec 4
  | .none           => 0
  | .illegalRequest => 1
  | .notReady       => 2
  | .alreadyInit    => 3
  | .invalidWindow  => 4

/-! ### The response word -/

/-- The response of a completed request: STATUS 0, `VALID`, `VALUE` (30_encoding.md R101). -/
def okResponse (valid : Bool) (value : Byte) : ResponseWord :=
  (0 : BitVec 23) ++ BitVec.ofBool valid ++ value

/-- The response of a fault: the code in STATUS, everything else 0 (30_encoding.md R101, 60_exceptions.md R212). -/
def faultResponse (f : FaultCode) : ResponseWord := f.code ++ (0 : BitVec 28)

/-- `STATUS`, bits 31 to 28 (30_encoding.md R101). -/
def respStatus (r : ResponseWord) : BitVec 4 := r.extractLsb' 28 4

/-- `VALID`, bit 8 (30_encoding.md R101). -/
def respValid (r : ResponseWord) : Bool := r.getLsbD 8

/-- `VALUE`, bits 7 to 0 (30_encoding.md R101). -/
def respValue (r : ResponseWord) : Byte := r.extractLsb' 0 8

/-! ### Conditions -/

/-- The extractor is full, `EX_AVAIL = K` (10_state.md R38). -/
def State.exFull (s : State) : Bool := s.ex.avail == s.cfg.k

/-- The extractor is empty, `EX_AVAIL = 0` (10_state.md R38). -/
def State.exEmpty (s : State) : Bool := s.ex.avail == 0

/-- A sample is ready on a channel: `NoiseReady(ch)` (10_state.md R41, 60_exceptions.md R227). -/
def State.noiseReady (s : State) (ch : Byte) : Bool := s.noise.any (fun n => n.channel == ch)

/-- The sequencer is idle: the port may accept a request (10_state.md R26). -/
def Sequencer.isIdle : Sequencer → Bool
  | .idle       => true
  | .busy _ _ _ => false

/-- The electrical levels of the three output lines, command/data, select and panel reset (10_state.md R23-R25;
parameter `LINE_POLARITY`). -/
def State.electricalLevels (s : State) : Bool × Bool × Bool :=
  (s.lineCmd == s.cfg.linePolarity.cmd, s.lineCs == s.cfg.linePolarity.cs, s.lineRst == s.cfg.linePolarity.rst)

end Sys2Proof.Machine
end

