-- ==== Sys2Proof/Machine/Operands.lean ====
section
/-! DEFINITION. The operand forms of the requests: the payload from `PL_BUF`, the window arithmetic, and byte halves of a
coordinate. -/

namespace Sys2Proof.Machine

/-- `hi8(v)` (00_scope.md R12). -/
def hi8 (v : Nat) : Byte := BitVec.ofNat 8 (v / 256 % 256)

/-- `lo8(v)` (00_scope.md R12). -/
def lo8 (v : Nat) : Byte := BitVec.ofNat 8 (v % 256)

/-- The window check of 40_framer.md R129: the window is not empty and lies on the panel. -/
def windowOk (c : Config) (x y w h : Nat) : Bool :=
  !(w == 0 || h == 0 || decide (c.panelW < x + w) || decide (c.panelH < y + h))

/-- The first and last coordinate of a window on the wire: margin added, last one inclusive (40_framer.md R130). -/
def wireRange (margin start size : Nat) : Nat × Nat := (margin + start, margin + start + size - 1)

/-- The four data bytes of an address-set command: first coordinate, then last, each high byte first
(40_framer.md R128, R130; 20_memory.md R63). -/
def rangeBytes (r : Nat × Nat) : List Byte := [hi8 r.1, lo8 r.1, hi8 r.2, lo8 r.2]

/-- The payload operand `PL_BUF[0 .. PL_LEN-1]` (40_framer.md R125, R133). -/
def State.payload (s : State) : List Byte := frontBytes s.plLen s.plBuf

/-- The port's load of the payload buffer (30_encoding.md R97): the first `LEN` bytes, the others as they were. -/
def State.loadPayload (p : List Byte) (s : State) : State :=
  { s with plBuf := loadBytes p s.plBuf, plLen := p.length }

end Sys2Proof.Machine
end

