-- ==== Sys2Proof/Machine/Receiver.lean ====
section
/-! DEFINITION. The reference receiver: what the display controller does with the items it receives, and where pixels
land (20_memory.md R70-R80). -/

namespace Sys2Proof.Machine

/-! ### Pixel memory -/

/-- The key of a cell: rows in order, columns within a row. -/
def cellKey (col row : Nat) : Nat := row * 65536 + col

/-- The pixel at a key: the one written there, else the free value of draw `base` (20_memory.md R71, R80). -/
def Memory.read (base : Nat) : Memory → Nat → Pixel
  | [], k           => Config.freePixel base k
  | (a, v) :: m, k  => if a = k then v else Memory.read base m k

/-- The memory with one pixel written. -/
def Memory.write : Memory → Nat → Pixel → Memory
  | [], k, p          => [(k, p)]
  | (a, v) :: m, k, p =>
    if k < a then (k, p) :: (a, v) :: m
    else if a = k then (k, p) :: m
    else (a, v) :: Memory.write m k p

/-- The canonical form: keys strictly rising (assumption log 5). -/
def Memory.wf : Memory → Bool
  | []            => true
  | [_]           => true
  | a :: b :: m   => decide (a.1 < b.1) && Memory.wf (b :: m)

/-- Every cell of the pixel memory takes a free value (20_memory.md R77, R80). -/
def Receiver.freeRam (r : Receiver) : Receiver := { r with ram := [], base := r.draws, draws := r.draws + 1 }

/-! ### The window and the pointer -/

/-- The window holds no pixel (20_memory.md R77). -/
def Receiver.windowEmpty (r : Receiver) : Bool := decide (r.xe < r.xs) || decide (r.ye < r.ys)

/-- The pointer takes a free value: the spec gives no movement (parameters `RX_SCAN`, `RX_WRAP` other than their
defaults, 20_memory.md R76; assumption log 17). -/
def Receiver.freePointer (r : Receiver) : Receiver :=
  { r with cx := Config.freeRxRegister r.draws 4, cy := Config.freeRxRegister r.draws 5, draws := r.draws + 1 }

/-- The pointer after one column step in row-major order, before the end of the window is looked at, on naturals
(20_memory.md R76). -/
def Receiver.stepped (r : Receiver) : Nat × Nat :=
  if r.xe.toNat < r.cx.toNat + 1 then (r.xs.toNat, r.cy.toNat + 1) else (r.cx.toNat + 1, r.cy.toNat)

/-- `advance()` in row-major order: the column, then the row, then the end of the window (20_memory.md R76). -/
def Receiver.advanceRowMajor (wrap : RxWrap) (r : Receiver) : Receiver :=
  if r.ye.toNat < r.stepped.2 then
    match wrap with
    | .toStart => { r with cx := BitVec.ofNat 16 r.stepped.1, cy := r.ys }
    | .other   => r.freePointer
  else { r with cx := BitVec.ofNat 16 r.stepped.1, cy := BitVec.ofNat 16 r.stepped.2 }

/-- `advance()` (20_memory.md R76). -/
def Receiver.advance (c : Config) (r : Receiver) : Receiver :=
  match c.rxScan with
  | .rowMajor => r.advanceRowMajor c.rxWrap
  | .other    => r.freePointer

/-- `write(P)`: the pixel at the pointer, then `advance()` (20_memory.md R75). With an empty window the spec gives no
placement, and every cell may hold any value after it (R77): each takes a free value (assumption log 19). -/
def Receiver.writePixel (c : Config) (p : Pixel) (r : Receiver) : Receiver :=
  if r.windowEmpty then Receiver.advance c r.freeRam
  else Receiver.advance c { r with ram := Memory.write r.ram (cellKey r.cx.toNat r.cy.toNat) p }

/-! ### Items -/

/-- The first pixel of a three-byte pattern (20_memory.md R75). -/
def firstPixel (b0 b1 : Byte) : Pixel := BitVec.ofNat 12 (b0.toNat * 16 + b1.toNat / 16)

/-- The second pixel of a three-byte pattern (20_memory.md R75). -/
def secondPixel (b1 b2 : Byte) : Pixel := BitVec.ofNat 12 (b1.toNat % 16 * 256 + b2.toNat)

/-- A command item (20_memory.md R72). -/
def Receiver.command (c : Config) (b : Byte) (r : Receiver) : Receiver :=
  let r' := { r with cmd := some b, args := [], pix := [] }
  if b = c.cmdRamwr then { r' with cx := r.xs, cy := r.ys } else r'

/-- A coordinate from its two bytes, high byte first (20_memory.md R73). -/
def coordOf (hi lo : Byte) : Coord := BitVec.ofNat 16 (hi.toNat * 256 + lo.toNat)

/-- The window register writes of CASET and RASET: only when four data bytes have arrived (20_memory.md R73). -/
def Receiver.setRange (c : Config) (b : Byte) (r : Receiver) : Receiver :=
  match r.args with
  | [a0, a1, a2, a3] =>
    if b = c.cmdCaset then { r with xs := coordOf a0 a1, xe := coordOf a2 a3 }
    else { r with ys := coordOf a0 a1, ye := coordOf a2 a3 }
  | _ => r

/-- A data item after CASET or RASET (20_memory.md R73): at most four bytes are taken. -/
def Receiver.addressData (c : Config) (b d : Byte) (r : Receiver) : Receiver :=
  if r.args.length < 4 then Receiver.setRange c b { r with args := r.args ++ [d] } else r

/-- A data item after RAMWR (20_memory.md R75): the third byte of a pattern yields two pixels. -/
def Receiver.pixelData (c : Config) (d : Byte) (r : Receiver) : Receiver :=
  match r.pix ++ [d] with
  | [b0, b1, b2] =>
    Receiver.writePixel c (secondPixel b1 b2) (Receiver.writePixel c (firstPixel b0 b1) { r with pix := [] })
  | bs => { r with pix := bs }

/-- A data item (20_memory.md R73, R75, R78): ignored after any other command. -/
def Receiver.data (c : Config) (d : Byte) (r : Receiver) : Receiver :=
  match r.cmd with
  | none   => r
  | some b =>
    if b = c.cmdCaset ∨ b = c.cmdRaset then r.addressData c b d
    else if b = c.cmdRamwr then r.pixelData c d
    else r

/-- One item from the wire: a command when the mode line says so, else data (20_memory.md R60, R70). -/
def Receiver.receive (c : Config) (isCommand : Bool) (v : Byte) (r : Receiver) : Receiver :=
  if isCommand then r.command c v else r.data c v

/-- Panel reset: the command state is cleared, and window, pointer and pixel memory are unconstrained
(20_memory.md R80): the registers and every cell take free values (assumption log 6). -/
def Receiver.panelReset (r : Receiver) : Receiver where
  cmd   := none
  args  := []
  xs    := Config.freeRxRegister r.draws 0
  xe    := Config.freeRxRegister r.draws 1
  ys    := Config.freeRxRegister r.draws 2
  ye    := Config.freeRxRegister r.draws 3
  cx    := Config.freeRxRegister r.draws 4
  cy    := Config.freeRxRegister r.draws 5
  pix   := []
  ram   := []
  base  := r.draws
  draws := r.draws + 1

/-- `RX_RAM(col, row)`: every cell has a pixel (20_memory.md R54, R71). -/
def Receiver.pixelAt (r : Receiver) (col row : Nat) : Pixel := Memory.read r.base r.ram (cellKey col row)

/-- The logical pixel `(px, py)` (20_memory.md R79); `none` off the panel. -/
def Receiver.logicalPixel (c : Config) (r : Receiver) (px py : Nat) : Option Pixel :=
  if px < c.panelW ∧ py < c.panelH then some (r.pixelAt (px + c.marginX) (py + c.marginY)) else none

end Sys2Proof.Machine
end

