-- ==== Sys2Proof/Machine/Ops.lean ====
section
/-! DEFINITION. The named operations of the pseudocode (00_scope.md R13): `respond`, `raise` (fault entry, the block's one
exception), `emit`, the extractor's buffer operations, the noise read, and block reset. -/

namespace Sys2Proof.Machine

/-! ### The sequencer -/

/-- The position after one more primitive (10_state.md R26). -/
def Sequencer.succ : Sequencer → Sequencer
  | .idle             => .idle
  | .busy req pos bit => .busy req (pos + 1) bit

/-- The noise bit among the locals of the request in progress (10_state.md R26, 41_entropy.md R166). -/
def Sequencer.localBit : Sequencer → Bool
  | .idle         => false
  | .busy _ _ bit => bit

/-- The local noise bit xor a new bit: `a`, then `a xor c` (41_entropy.md R166). -/
def Sequencer.xorBit (b : Bool) : Sequencer → Sequencer
  | .idle             => .idle
  | .busy req pos bit => .busy req pos (bit ^^ b)

/-- The sequencer goes on to the next primitive (10_state.md R30). -/
def State.advance (s : State) : State := { s with seq := s.seq.succ }

/-! ### Completion and fault entry -/

/-- `respond(valid, value)`: the response word, and the sequencer is idle (30_encoding.md R101). -/
def State.respond (valid : Bool) (value : Byte) (s : State) : State :=
  { s with resp := okResponse valid value, seq := .idle }

/-- `raise F`, fault entry: `FAULT`, `RESP` and the sequencer, in one step (60_exceptions.md R212). There is no return
from it but block reset (R213, R216). -/
def State.raise (f : FaultCode) (s : State) : State :=
  { s with fault := f, resp := faultResponse f, seq := .idle }

/-! ### Bus events -/

/-- The effect of a bus event apart from the log (20_memory.md R57-R62). -/
def State.applyEvent (e : BusEvent) (s : State) : State :=
  match e with
  | .wait   => s
  | .dc b   => { s with lineCmd := b }
  | .cs b   => { s with lineCs := b }
  | .tx v   => { s with chBusy := true, rx := if s.lineCs then Receiver.receive s.cfg s.lineCmd v s.rx else s.rx }
  | .rst b  => { s with lineRst := b, rx := if b then s.rx.panelReset else s.rx }
  | .dly _  => s

/-- `emit e`: the log and the event's effect in one step (20_memory.md R56). -/
def State.emit (e : BusEvent) (s : State) : State :=
  State.applyEvent e { s with busLog := s.busLog ++ [e] }

/-! ### The extractor -/

/-- `BufRead(i)` (10_state.md R31). Entry `i` exists whenever the pseudocode reads it (assumption log 20). -/
def Extractor.bufRead (e : Extractor) (i : Nat) : Sample := e.buf.getD i 0

/-- `BufWrite(i, v)` (10_state.md R31). -/
def Extractor.bufWrite (e : Extractor) (i : Nat) (v : Sample) : Extractor := { e with buf := e.buf.set i v }

/-- The candidate with a bit shifted in at the low end (41_entropy.md R161 step 2). -/
def shiftIn (cand : BitVec 3) (b : Bool) : BitVec 3 := (cand <<< 1) ||| (BitVec.ofBool b).setWidth 3

/-- The accept of a candidate: push at the tail (41_entropy.md R161 step 4). -/
def Extractor.accept (k : Nat) (v : Sample) (e : Extractor) : Extractor :=
  { e.bufWrite e.tail v with tail := (e.tail + 1) % k, avail := e.avail + 1 }

/-- The decision on a complete candidate: accept 0 to 6, reject 7, and clear both (41_entropy.md R161 steps 4, 5). -/
def Extractor.decide (k : Nat) (v : Sample) (e : Extractor) : Extractor :=
  { (if v.toNat < 7 then e.accept k v else e) with cand := 0, nbits := 0 }

/-- `addbit(b)` on the six fields, one atomic unit (41_entropy.md R161; 20_memory.md R67). -/
def Extractor.addBit (k : Nat) (b : Bool) (e : Extractor) : Extractor :=
  if e.avail = k then e
  else if e.nbits + 1 < 3 then { e with cand := shiftIn e.cand b, nbits := e.nbits + 1 }
  else e.decide k (shiftIn e.cand b)

/-- The extractor after its oldest sample is taken (41_entropy.md R170). -/
def Extractor.pop (k : Nat) (e : Extractor) : Extractor :=
  { e with head := (e.head + 1) % k, avail := e.avail - 1 }

/-- `addbit(b)`, which responds in every case (41_entropy.md R161). -/
def State.addBit (b : Bool) (s : State) : State :=
  ({ s with ex := s.ex.addBit s.cfg.k b } : State).respond false 0

/-- The body of EX_NEXT (41_entropy.md R170). -/
def State.takeNext (s : State) : State :=
  if 0 < s.ex.avail then
    ({ s with ex := s.ex.pop s.cfg.k } : State).respond true ((s.ex.bufRead s.ex.head).setWidth 8)
  else s.respond false s.cfg.fallback

/-! ### The noise source -/

/-- The first ready sample of a channel, and the samples left when it is read (10_state.md R41; 60_exceptions.md R227). -/
def takeSample (ch : Byte) : List NoiseSample → Nat × List NoiseSample
  | []     => (0, [])
  | n :: l => if n.channel = ch then (n.value, l) else ((takeSample ch l).1, n :: (takeSample ch l).2)

/-- `NoiseRead(ch) mod 2` into the local noise bit (41_entropy.md R166). -/
def State.readNoise (ch : Byte) (s : State) : State :=
  { s with noise := (takeSample ch s.noise).2, seq := s.seq.xorBit ((takeSample ch s.noise).1 % 2 == 1) }

/-- The noise source makes a channel ready with a sample of `NOISE_SAMPLE_W` bits (10_state.md R41, 60_exceptions.md
R227). -/
def State.offerSample (ch : Byte) (v : Nat) (s : State) : State :=
  { s with noise := s.noise ++ [⟨ch, v % 2 ^ s.cfg.noiseSampleW⟩] }

/-! ### Block reset and the moves of the external agents -/

/-- Block reset (70_reset_and_hazards.md R240): every element of 10_state.md R45 takes its reset value, in one step. The
host's queue, the schedule, the noise source and the fairness assumptions are not the block's (assumption log 22). The
controller's pixels take free values not drawn before (20_memory.md R80). -/
def State.blockReset (d : ResetDraw) (s : State) : State :=
  { State.resetWith s.cfg d with
    rx         := { Receiver.afterReset d with base := s.rx.draws, draws := s.rx.draws + 1 }
    noise      := s.noise
    port       := s.port
    env        := s.env
    chanFair   := s.chanFair
    noiseFair  := s.noiseFair
    noiseDraws := s.noiseDraws }

/-- The SerialByteChannel's one step: it clears its busy flag (60_exceptions.md R225). -/
def State.clearBusy (s : State) : State := { s with chBusy := false }

/-- One move of an external agent (00_scope.md R5; 60_exceptions.md R225, R227, R229, R235; 70_reset_and_hazards.md R240).
A channel that is not busy has no step: the move changes nothing then. -/
def State.move (m : EnvMove) (s : State) : State :=
  match m with
  | .channelDone      => s.clearBusy
  | .sampleReady ch v => s.offerSample ch v
  | .tickElapsed      => { s with tickDeadline := true }
  | .clearDeadline    => { s with tickDeadline := false }
  | .issue r          => { s with port := s.port ++ [r] }
  | .reset d          => s.blockReset d

/-- `deadlineElapsed()` (10_state.md R42). -/
def State.deadlineElapsed (s : State) : Bool := s.tickDeadline

end Sys2Proof.Machine
end

