-- ==== Sys2Proof/Machine/Primitives.lean ====
section
/-! DEFINITION. The primitives of a request's pseudocode and how the sequencer performs them: one primitive after another,
waiting at an `await` for the external agents (00_scope.md R13; 10_state.md R26). A request's pseudocode is a list of
primitives; `run` performs it until `respond`, `raise`, or an `await` that nothing ends. -/

namespace Sys2Proof.Machine

/-- A primitive of the pseudocode (00_scope.md R13). -/
inductive Prim where
  /-- `if FR_INIT = UNINIT then raise NOT_READY` (40_framer.md R121). -/
  | checkReady
  /-- `if FR_INIT = READY then raise ALREADY_INIT` (40_framer.md R121, R140). -/
  | checkUninit
  /-- `check_window(x, y, w, h)` (40_framer.md R129). -/
  | checkWindow (x y w h : Nat)
  /-- `emit e` (20_memory.md R56). -/
  | emit (e : BusEvent)
  /-- `Wait()`: await `CH_BUSY = false`, emit WAIT (20_memory.md R57). -/
  | wait
  /-- `FR_INIT <- READY` (40_framer.md R140). -/
  | setReady
  /-- `respond(valid, value)` (30_encoding.md R101). -/
  | respond (valid : Bool) (value : Byte)
  /-- `addbit(b)` (41_entropy.md R161). -/
  | addBit (b : Bool)
  /-- await `NoiseReady(ch)`, and its sample's bit 0 into the local bit (41_entropy.md R166). -/
  | readNoise (ch : Byte)
  /-- `addbit(bit)` of the local bit (41_entropy.md R166). -/
  | addLocalBit
  /-- The body of EX_NEXT (41_entropy.md R170). -/
  | takeNext
  /-- `respond(1, EX_AVAIL)` (41_entropy.md R174). -/
  | readAvailable
  /-- `respond(1, K)` (41_entropy.md R176). -/
  | readCapacity
  deriving DecidableEq, Repr

/-- The condition a primitive awaits; a primitive without one is always enabled (00_scope.md R13). -/
def State.enabled (p : Prim) (s : State) : Bool :=
  match p with
  | .wait         => !s.chBusy
  | .readNoise ch => s.noiseReady ch
  | _             => true

/-- One enabled primitive (00_scope.md R13). -/
def State.perform (p : Prim) (s : State) : State :=
  match p with
  | .checkReady          => if s.frInit = .uninit then s.raise .notReady else s.advance
  | .checkUninit         => if s.frInit = .ready then s.raise .alreadyInit else s.advance
  | .checkWindow x y w h => if windowOk s.cfg x y w h then s.advance else s.raise .invalidWindow
  | .emit e              => (s.emit e).advance
  | .wait                => (s.emit .wait).advance
  | .setReady            => ({ s with frInit := .ready } : State).advance
  | .respond v b         => s.respond v b
  | .addBit b            => s.addBit b
  | .readNoise ch        => (s.readNoise ch).advance
  | .addLocalBit         => s.addBit s.seq.localBit
  | .takeNext            => s.takeNext
  | .readAvailable       => s.respond true (BitVec.ofNat 8 s.ex.avail)
  | .readCapacity        => s.respond true (BitVec.ofNat 8 s.cfg.k)

/-- The step that weak fairness grants a waiting sequencer when nothing is scheduled: the channel clears busy under
CHANNEL_FAIR, the noise source makes the channel ready under NOISE_FAIR with a free sample of `NOISE_SAMPLE_W` bits
(60_exceptions.md R225, R227; assumption logs 9, 10). Without the assumption there is none. -/
def State.grant (p : Prim) (s : State) : Option State :=
  match p with
  | .wait         => if s.chanFair then some s.clearBusy else none
  | .readNoise ch =>
    if s.noiseFair then
      some (({ s with noiseDraws := s.noiseDraws + 1 } : State).offerSample ch (Config.freeNoiseSample s.noiseDraws))
    else none
  | _             => none

/-- How an await ends. -/
inductive Awaited where
  /-- The condition holds; the sequencer goes on. -/
  | holds (s : State)
  /-- Nothing more is scheduled and the condition does not hold: the request stays in progress here. -/
  | blocked (s : State)
  /-- Block reset was applied: the request is abandoned (70_reset_and_hazards.md R240). -/
  | abandoned (s : State)

/-- `await`: while the condition does not hold the scheduled moves are made one after another (00_scope.md R13). The
list is the state's schedule; each move is taken off it. -/
def State.awaitFor (p : Prim) : List EnvMove → State → Awaited
  | [], s =>
    if s.enabled p then .holds s
    else match s.grant p with
      | some s' => .holds s'
      | none    => .blocked s
  | m :: ms, s =>
    if s.enabled p then .holds s
    else
      let s' := ({ s with env := ms } : State).move m
      if s'.seq.isIdle then .abandoned s' else State.awaitFor p ms s'

/-- The sequencer performs the rest of a request's pseudocode (10_state.md R26): up to the response or the fault, or to
an await that nothing ends. -/
def State.run : List Prim → State → State
  | [], s      => s
  | p :: ps, s =>
    match s.awaitFor p s.env with
    | .blocked s'   => s'
    | .abandoned s' => s'
    | .holds s'     => if (s'.perform p).seq.isIdle then s'.perform p else State.run ps (s'.perform p)

/-- The port's acceptance of a decoded request: the payload into `PL_BUF` where the request carries one, and the
sequencer at the start of its pseudocode (30_encoding.md R97, R99). -/
def State.begin (i : Instr) (s : State) : State :=
  match i with
  | .sendData p _    => { s.loadPayload p with seq := .busy i 0 false }
  | .writePixels p _ => { s.loadPayload p with seq := .busy i 0 false }
  | _                => { s with seq := .busy i 0 false }

end Sys2Proof.Machine
end

