-- ==== Sys2Proof/Machine/Entropy.lean ====
section
/-! DEFINITION. The entropy extractor: the pseudocode and meaning of its five requests (41_entropy.md). They read no
`FR_INIT` and emit no event (R160). -/

namespace Sys2Proof.Machine

/-! ### The requests' pseudocode -/

/-- EX_ADD_BIT (41_entropy.md R161). -/
def progAddBit (bit : Bool) : List Prim := [.addBit bit]

/-- EX_ADD_NOISE (41_entropy.md R166): one sample, or two with `XOR`, then `addbit`. -/
def progAddNoise (two : Bool) (chA chB : Byte) : List Prim :=
  if two then [.readNoise chA, .readNoise chB, .addLocalBit] else [.readNoise chA, .addLocalBit]

/-- EX_NEXT (41_entropy.md R170). -/
def progNext : List Prim := [.takeNext]

/-- EX_AVAILABLE (41_entropy.md R174). -/
def progAvailable : List Prim := [.readAvailable]

/-- EX_CAPACITY (41_entropy.md R176). -/
def progCapacity : List Prim := [.readCapacity]

/-! ### Meanings: acceptance by the port, then the pseudocode -/

/-- The meaning of EX_ADD_BIT. -/
def execAddBit (bit : Bool) (s : State) : Host.Outcome State Fault Refusal :=
  .next ((s.begin (.exAddBit bit)).run (progAddBit bit))

/-- The meaning of EX_ADD_NOISE. -/
def execAddNoise (two : Bool) (chA chB : Byte) (s : State) : Host.Outcome State Fault Refusal :=
  .next ((s.begin (.exAddNoise two chA chB)).run (progAddNoise two chA chB))

/-- The meaning of EX_NEXT. -/
def execNext (s : State) : Host.Outcome State Fault Refusal :=
  .next ((s.begin .exNext).run progNext)

/-- The meaning of EX_AVAILABLE. -/
def execAvailable (s : State) : Host.Outcome State Fault Refusal :=
  .next ((s.begin .exAvailable).run progAvailable)

/-- The meaning of EX_CAPACITY. -/
def execCapacity (s : State) : Host.Outcome State Fault Refusal :=
  .next ((s.begin .exCapacity).run progCapacity)

end Sys2Proof.Machine
end

