-- ==== Sys2Proof/Machine/Framer.lean ====
section
/-! DEFINITION. The display protocol framer: its two procedures and the pseudocode and meaning of its six requests
(40_framer.md). -/

namespace Sys2Proof.Machine

/-! ### Procedures -/

/-- `cmd(c)`, six events (40_framer.md R122). -/
def cmd (c : Byte) : List Prim :=
  [.wait, .emit (.dc true), .emit (.cs true), .emit (.tx c), .wait, .emit (.cs false)]

/-- One byte of `data`, select raised before it and lowered after it (40_framer.md R124, R126). -/
def dataByte (b : Byte) : List Prim :=
  [.emit (.cs true), .emit (.tx b), .wait, .emit (.cs false)]

/-- The bytes of `n` repetitions, index order within each (40_framer.md R124). -/
def repetitions (bytes : List Byte) : Nat → List Prim
  | 0     => []
  | n + 1 => bytes.flatMap dataByte ++ repetitions bytes n

/-- `data(L, r)`: one wait and the mode line, then `r + 1` repetitions (40_framer.md R124, R127). -/
def data (bytes : List Byte) (r : Nat) : List Prim :=
  [.wait, .emit (.dc false)] ++ repetitions bytes (r + 1)

/-! ### The requests' pseudocode -/

/-- SEND_CMD (40_framer.md R123). -/
def progSendCmd (byte : Byte) : List Prim :=
  .checkReady :: (cmd byte ++ [.respond false 0])

/-- SEND_DATA (40_framer.md R125). -/
def progSendData (payload : List Byte) (rep : Nat) : List Prim :=
  .checkReady :: (data payload rep ++ [.respond false 0])

/-- SET_WINDOW (40_framer.md R128): columns first. -/
def progSetWindow (c : Config) (x y w h : Nat) : List Prim :=
  .checkReady :: .checkWindow x y w h ::
    (cmd c.cmdCaset ++ data (rangeBytes (wireRange c.marginX x w)) 0 ++
     cmd c.cmdRaset ++ data (rangeBytes (wireRange c.marginY y h)) 0 ++ [.respond false 0])

/-- WRITE_PIXELS (40_framer.md R133). -/
def progWritePixels (c : Config) (payload : List Byte) (rep : Nat) : List Prim :=
  .checkReady :: (cmd c.cmdRamwr ++ data payload rep ++ [.respond false 0])

/-- INIT (40_framer.md R140). -/
def progInit (c : Config) : List Prim :=
  .checkUninit ::
    ([.emit (.rst true), .emit (.dly c.dRstHold), .emit (.rst false), .emit (.dly c.dRstSettle)] ++
     cmd c.cmdSlpout ++ [.emit (.dly c.dSlpout)] ++
     cmd c.cmdColmod ++ data [c.colmodRgb444] 0 ++
     cmd c.cmdMadctl ++ data [c.madctlParam] 0 ++ [.setReady, .respond false 0])

/-- DISPLAY_ON (40_framer.md R144). -/
def progDisplayOn (c : Config) : List Prim :=
  .checkReady :: .emit (.dly c.dDispon) :: (cmd c.cmdDispon ++ [.respond false 0])

/-! ### Meanings: acceptance by the port, then the pseudocode -/

/-- The meaning of SEND_CMD. -/
def execSendCmd (byte : Byte) (s : State) : Host.Outcome State Fault Refusal :=
  .next ((s.begin (.sendCmd byte)).run (progSendCmd byte))

/-- The meaning of SEND_DATA: the payload is read back from `PL_BUF`. -/
def execSendData (payload : List Byte) (rep : BitVec 32) (s : State) : Host.Outcome State Fault Refusal :=
  .next ((s.begin (.sendData payload rep)).run
    (progSendData (s.begin (.sendData payload rep)).payload rep.toNat))

/-- The meaning of SET_WINDOW. -/
def execSetWindow (x y wd ht : BitVec 12) (s : State) : Host.Outcome State Fault Refusal :=
  .next ((s.begin (.setWindow x y wd ht)).run (progSetWindow s.cfg x.toNat y.toNat wd.toNat ht.toNat))

/-- The meaning of WRITE_PIXELS: the payload is read back from `PL_BUF`. -/
def execWritePixels (payload : List Byte) (rep : BitVec 32) (s : State) : Host.Outcome State Fault Refusal :=
  .next ((s.begin (.writePixels payload rep)).run
    (progWritePixels s.cfg (s.begin (.writePixels payload rep)).payload rep.toNat))

/-- The meaning of INIT. -/
def execInit (s : State) : Host.Outcome State Fault Refusal :=
  .next ((s.begin .init).run (progInit s.cfg))

/-- The meaning of DISPLAY_ON. -/
def execDisplayOn (s : State) : Host.Outcome State Fault Refusal :=
  .next ((s.begin .displayOn).run (progDisplayOn s.cfg))

end Sys2Proof.Machine
end

