-- ==== Sys2Proof/Machine/Dispatch.lean ====
section
/-! DEFINITION. The dispatch of a decoded request to its meaning, one arm per constructor (30_encoding.md R94). -/

namespace Sys2Proof.Machine

def exec (i : Instr) (s : State) : Host.Outcome State Fault Refusal :=
  match i with
  | .sendCmd byte => Sys2Proof.Machine.execSendCmd byte s
  | .sendData payload rep => Sys2Proof.Machine.execSendData payload rep s
  | .setWindow x y wd ht => Sys2Proof.Machine.execSetWindow x y wd ht s
  | .writePixels payload rep => Sys2Proof.Machine.execWritePixels payload rep s
  | .init => Sys2Proof.Machine.execInit s
  | .displayOn => Sys2Proof.Machine.execDisplayOn s
  | .exAddBit bit => Sys2Proof.Machine.execAddBit bit s
  | .exAddNoise two chA chB => Sys2Proof.Machine.execAddNoise two chA chB s
  | .exNext => Sys2Proof.Machine.execNext s
  | .exAvailable => Sys2Proof.Machine.execAvailable s
  | .exCapacity => Sys2Proof.Machine.execCapacity s

end Sys2Proof.Machine
end

