-- ==== Sys2Proof/Machine/Sequencer.lean ====
section
/-! DEFINITION. What one step of the machine is, at the request port and in the middle of a request, and the machine's
finest step, one agent's primitive at a time (00_scope.md R5; 10_state.md R26; 20_memory.md R64). -/

namespace Sys2Proof.Machine

/-- The pseudocode of a request in progress (10_state.md R26), its payload read from `PL_BUF`. -/
def State.program (s : State) : Instr → List Prim
  | .sendCmd b          => progSendCmd b
  | .sendData _ r       => progSendData s.payload r.toNat
  | .setWindow x y w h  => progSetWindow s.cfg x.toNat y.toNat w.toNat h.toNat
  | .writePixels _ r    => progWritePixels s.cfg s.payload r.toNat
  | .init               => progInit s.cfg
  | .displayOn          => progDisplayOn s.cfg
  | .exAddBit b         => progAddBit b
  | .exAddNoise t a b   => progAddNoise t a b
  | .exNext             => progNext
  | .exAvailable        => progAvailable
  | .exCapacity         => progCapacity

/-- The stuck state of a primitive whose await nothing ends (60_exceptions.md R225, R227). -/
def hangOf : Prim → Fault
  | .readNoise ch => .noiseHang ch
  | _             => .channelHang

/-- An await that nothing ends: the condition does not hold, nothing is scheduled and no fairness helps
(60_exceptions.md R225, R227). -/
def State.stuckAt (p : Prim) (s : State) : Bool :=
  !s.enabled p && s.env.isEmpty && (s.grant p).isNone

/-- A request in progress goes on from its position (10_state.md R26). -/
def State.resume (req : Instr) (pos : Nat) (s : State) : Host.Outcome State Fault Refusal :=
  match (s.program req).drop pos with
  | []      => .fault .offProgram
  | p :: ps => if s.stuckAt p then .fault (hangOf p) else .next (s.run (p :: ps))

/-- The port takes a request: decode, and the request's meaning, or ILLEGAL_REQUEST (30_encoding.md R99). -/
def State.acceptRequest (r : Request) (s : State) : Host.Outcome State Fault Refusal :=
  match decode s.cfg r.word r.payload with
  | .error _ => .next (s.raise .illegalRequest)
  | .ok i    => exec i s

/-- The block has nothing to do: the next scheduled move is made. With nothing scheduled the block waits for its first
request (70_reset_and_hazards.md R241), or is halted by its fault (60_exceptions.md R213). -/
def State.idleMove (s : State) : Host.Outcome State Fault Refusal :=
  match s.env with
  | m :: ms => .next (({ s with env := ms } : State).move m)
  | []      => if s.fault = .none then .next s else .fault (.halted s.fault)

/-- A block reset is the next scheduled move (70_reset_and_hazards.md R240). -/
def State.resetDue (s : State) : Bool :=
  match s.env with
  | .reset _ :: _ => true
  | _             => false

/-- The idle block's port accepts a request: no fault is set (60_exceptions.md R213), and no reset comes first
(assumption log 8). -/
def State.portOpen (s : State) : Bool := s.fault == .none && !s.resetDue

/-- The block is idle: the port, when it is open, accepts the oldest request (20_memory.md R64). -/
def State.idleStep (s : State) : Host.Outcome State Fault Refusal :=
  if s.portOpen then
    match s.port with
    | r :: rs => ({ s with port := rs } : State).acceptRequest r
    | []      => s.idleMove
  else s.idleMove

/-! ### The finest step: one primitive of the sequencer, or one move of another agent (00_scope.md R5, R13) -/

/-- One primitive of a request in progress; where it awaits, one move of another agent (00_scope.md R13). -/
def State.microBusy (req : Instr) (pos : Nat) (s : State) : Host.Outcome State Fault Refusal :=
  match (s.program req).drop pos with
  | []     => .fault .offProgram
  | p :: _ =>
    if s.enabled p then .next (s.perform p)
    else match s.env with
      | m :: ms => .next (({ s with env := ms } : State).move m)
      | []      =>
        match s.grant p with
        | some s' => .next s'
        | none    => .fault (hangOf p)

/-- The port takes a request, in one step (30_encoding.md R97, R99). -/
def State.microAccept (r : Request) (s : State) : State :=
  match decode s.cfg r.word r.payload with
  | .error _ => s.raise .illegalRequest
  | .ok i    => s.begin i

/-- One agent's step (00_scope.md R5). -/
def microStep (s : State) : Host.Outcome State Fault Refusal :=
  match s.seq with
  | .busy req pos _ => s.microBusy req pos
  | .idle           =>
    if s.portOpen then
      match s.port with
      | r :: rs => .next (({ s with port := rs } : State).microAccept r)
      | []      => s.idleMove
    else s.idleMove

/-- `n` of the agents' steps. -/
def microRun : Nat → State → Host.Outcome State Fault Refusal
  | 0, s     => .next s
  | n + 1, s =>
    match microStep s with
    | .next s'   => microRun n s'
    | .fault r   => .fault r
    | .refused r => .refused r

end Sys2Proof.Machine
end

