-- ==== Sys2Proof/Machine/Step.lean ====
section
/-! DEFINITION. The step of the machine: a request in progress goes on; else the port takes the next request and runs it
(00_scope.md R4; 10_state.md R26; 20_memory.md R64). -/

namespace Sys2Proof.Machine

/-- One step, at the request-transaction level (assumption log 7). -/
def step (s : State) : Host.Outcome State Fault Refusal :=
  match s.seq with
  | .busy req pos _ => s.resume req pos
  | .idle           => s.idleStep

/-- The state in which the very next step takes the request that the opcode table numbers `w`: it is the oldest on the
port, and the block is idle, without a fault, and without a reset that comes first (assumption log 21). -/
def State.withFetchWord (s : State) (nbits w : Nat) : State :=
  { s with
    port := tableRequest nbits w :: s.port, seq := .idle, fault := .none
    env := if s.resetDue then [] else s.env }

end Sys2Proof.Machine
end

