-- ==== Sys2Proof/Machine/HostSequences.lean ====
section
/-! DEFINITION. Assembly lines (30_encoding.md R105, R106), and the host's request sequences, outside the block: renderer,
boot, entropy priming and the glue loop (45_host_sequences.md; 60_exceptions.md R230, R235; 70_reset_and_hazards.md
R242). A sequence that needs an operand no request word encodes, or a negative position, is none: the host cannot issue
it (assumption log 23). How the host waits, and over what its loops run, is assumption log 29. -/

namespace Sys2Proof.Machine

/-! ### Assembly lines (30_encoding.md R105, R106) -/

/-- An operand of an assembly line: a number, or a payload list. -/
inductive AsmOperand where
  | number (n : Nat)
  | bytes (p : List Byte)
  deriving DecidableEq, Repr

/-- A number below `2^n` as a field of `n` bits (30_encoding.md R93). -/
def asmField (n v : Nat) : Option (BitVec n) := if v < 2 ^ n then some (BitVec.ofNat n v) else none

/-- A payload list whose length `LEN` can hold, below `2^24` (30_encoding.md R93). -/
def asmPayload (p : List Byte) : Option (List Byte) := if p.length < 2 ^ 24 then some p else none

/-- `set_window x, y, w, h` where each number fits its 12-bit field (30_encoding.md R93). -/
def asmWindow (x y w h : Nat) : Option Instr :=
  match asmField 12 x, asmField 12 y, asmField 12 w, asmField 12 h with
  | some x, some y, some w, some h => some (.setWindow x y w h)
  | _, _, _, _                     => none

/-- `ceil(w * h / 2) - 1` (45_host_sequences.md R190). -/
def fillRepeat (w h : Nat) : Nat := (w * h + 1) / 2 - 1

/-- The requests of a fill, given its `set_window` (30_encoding.md R106, 45_host_sequences.md R190). For an empty window
R190 does not compute the repeat, and `set_window` faults: that the expansion is `set_window` alone is the model's DESIGN
CHOICE (assumption log 33). -/
def fillRequests (w h : Nat) (color : Byte × Byte × Byte) (window : Instr) : List Instr :=
  if w * h = 0 then [window]
  else [window, .writePixels [color.1, color.2.1, color.2.2] (BitVec.ofNat 32 (fillRepeat w h))]

/-- A request with a payload and a repeat, where `LEN` and `REPEAT` can hold them (30_encoding.md R93, R105). -/
def asmData (request : List Byte → BitVec 32 → Instr) (p : List Byte) (r : Nat) : Option (List Instr) :=
  match asmPayload p, asmField 32 r with
  | some p, some r => some [request p r]
  | _, _           => none

/-- `write_pixels_once` of a payload that `LEN` can hold (30_encoding.md R106, 40_framer.md R134). -/
def writePixelsOnce (bytes : List Byte) : Option (List Instr) := asmData .writePixels bytes 0

/-- `draw_glyph`: the window, then its glyph once (30_encoding.md R106). -/
def glyphRequests (window : Option Instr) (glyph : List Byte) : Option (List Instr) :=
  match window, writePixelsOnce glyph with
  | some i, some is => some (i :: is)
  | _, _            => none

/-- The requests of an assembly line: mnemonic and operands; the three pseudo-requests expand (30_encoding.md R105,
R106). The spec does not say what a line assembles to whose number its field cannot hold, whose payload list `LEN` cannot
hold (`2^24` bytes or more), or whose operands the mnemonic does not take: that it gives none, no request at all, is the
model's DESIGN CHOICE (assumption log 34). So is that a `fill_rect` of an empty window expands to its `set_window` alone
(assumption log 33). -/
def assemble (mnemonic : String) (operands : List AsmOperand) : Option (List Instr) :=
  match mnemonic, operands with
  | "send_cmd", [.number b]                => (asmField 8 b).map fun b => [.sendCmd b]
  | "send_data", [.bytes p, .number r]     => asmData .sendData p r
  | "set_window", [.number x, .number y, .number w, .number h] => (asmWindow x y w h).map fun i => [i]
  | "write_pixels", [.bytes p, .number r]  => asmData .writePixels p r
  | "init", []                             => some [.init]
  | "display_on", []                       => some [.displayOn]
  | "add_bit", [.number b]                 => (asmField 1 b).map fun b => [.exAddBit (b == 1)]
  | "add_noise", [.number a]               => (asmField 8 a).map fun a => [.exAddNoise false a 0]
  | "add_noise", [.number a, .number b]    =>
    match asmField 8 a, asmField 8 b with
    | some a, some b => some [.exAddNoise true a b]
    | _, _           => none
  | "next", []                             => some [.exNext]
  | "available", []                        => some [.exAvailable]
  | "capacity", []                         => some [.exCapacity]
  | "write_pixels_once", [.bytes p]        => writePixelsOnce p
  | "fill_rect", [.number x, .number y, .number w, .number h, .bytes [c0, c1, c2]] =>
    (asmWindow x y w h).map (fillRequests w h (c0, c1, c2))
  | "draw_glyph", [.number x, .number y, .number w, .number h, .bytes g] =>
    glyphRequests (asmWindow x y w h) g
  | _, _                                   => none

/-! ### Issuing requests -/

/-- How a host sequence ends. -/
inductive HostResult where
  /-- It is through: every request of it has responded without a fault. -/
  | done (s : State)
  /-- A request was answered by a fault; the host issues nothing more (60_exceptions.md R213). -/
  | faulted (s : State)
  /-- Block reset abandoned the request in progress; it never responds (70_reset_and_hazards.md R240). -/
  | abandoned (s : State)
  /-- The host is still waiting, and nothing scheduled ends its wait. -/
  | waiting (s : State)
  /-- The host is still waiting, and the block has no step. -/
  | stuck (f : Fault)
  /-- A request without a meaning. -/
  | refused (r : Refusal)
  deriving DecidableEq, Repr

/-- One host sequence after another: the next begins only when the last one is through (60_exceptions.md R213, R235). -/
def HostResult.andThen (next : State → HostResult) : HostResult → HostResult
  | .done s => next s
  | r       => r

/-- The very next step takes a request off the port (20_memory.md R64). -/
def State.accepts (s : State) : Bool := s.seq.isIdle && s.portOpen && !s.port.isEmpty

/-- The number of block resets that are scheduled. -/
def State.resetsDue (s : State) : Nat := (s.env.filter fun m => match m with | .reset _ => true | _ => false).length

/-- How the host's request stands after a step of the block in which it was in progress: answered, when the block is
idle and the step made no reset; `wait` is what the host does while there is no response. -/
def hostAnswer (wait : State → HostResult) (before after : State) : HostResult :=
  if !after.seq.isIdle then wait after
  else if after.resetsDue < before.resetsDue then .abandoned after
  else if after.fault = .none then .done after
  else .faulted after

/-- At most `n` steps of the block while the host awaits the response of its request, which stands behind `ahead` others
on the port, or, with `ahead` none, is the one in progress (60_exceptions.md R235). -/
def hostWait : Nat → Option Nat → State → HostResult
  | 0, _, s         => .waiting s
  | n + 1, ahead, s =>
    match step s with
    | .fault r   => .stuck r
    | .refused r => .refused r
    | .next t    =>
      match ahead with
      | none         => hostAnswer (hostWait n none) s t
      | some 0       => if s.accepts then hostAnswer (hostWait n none) s t else hostWait n (some 0) t
      | some (k + 1) => hostWait n (some (if s.accepts then k else k + 1)) t

/-- More steps than the block can make before the last request of its port has responded: each takes a request off the
port, makes a scheduled move, ends a request in progress, or is the last. -/
def State.waitBound (s : State) : Nat := s.env.length + s.port.length + 2

/-- The host issues one request and awaits its response (60_exceptions.md R235). -/
def hostIssue (i : Instr) (s : State) : HostResult :=
  hostWait ({ s with port := s.port ++ [encode i] } : State).waitBound (some s.port.length)
    { s with port := s.port ++ [encode i] }

/-- The host issues requests one after another, each only after the response of the last, and nothing after a fault
(60_exceptions.md R213, R235). -/
def hostRun : List Instr → State → HostResult
  | [], s      => .done s
  | i :: is, s => (hostIssue i s).andThen fun t => hostRun is t

/-! ### The renderer -/

/-- `set_window x, y, w, h` where the four numbers are encodable (30_encoding.md R93). -/
def hostSetWindow (w : Window) : Option Instr := asmWindow w.x w.y w.wd w.ht

/-- FILL_RECT (45_host_sequences.md R190); `set_window` alone for an empty window (assumption log 33). -/
def fillRect (w : Window) (color : Byte × Byte × Byte) : Option (List Instr) :=
  (hostSetWindow w).map (fillRequests w.wd w.ht color)

/-- `COLOR[kind]`: black for the empty cell (45_host_sequences.md R192, R199). -/
def colorOf (l : HostLayout) : PieceKind → Byte × Byte × Byte
  | .shape n => l.shapeColor n
  | .empty   => (0x00, 0x00, 0x00)

/-- DRAW_CELL (45_host_sequences.md R192). -/
def drawCell (l : HostLayout) (gx gy : Nat) (kind : PieceKind) : Option (List Instr) :=
  fillRect ⟨gx * l.cellSize + l.fieldOffsetX, gy * l.cellSize + l.fieldOffsetY, l.cellSize, l.cellSize⟩ (colorOf l kind)

/-- DRAW_STATIC_GLYPH (45_host_sequences.md R193; 30_encoding.md R106). -/
def drawStaticGlyph (w : Window) (glyph : List Byte) : Option (List Instr) :=
  glyphRequests (hostSetWindow w) glyph

/-- White, all ones in every channel (45_host_sequences.md R194). -/
def white : Byte × Byte × Byte := (0xFF, 0xFF, 0xFF)

/-- The digit count of a clamped value (45_host_sequences.md R194). -/
def digitCount (v : Nat) : Nat := if 99 < v then 3 else if 9 < v then 2 else 1

/-- `n` digit glyphs from `pos` leftwards, least significant first (45_host_sequences.md R194). -/
def drawDigits (l : HostLayout) (ay : Nat) : Nat → Nat → Nat → Option (List Instr)
  | 0, _, _       => some []
  | n + 1, pos, v =>
    if n ≠ 0 ∧ pos < l.digitPitch then none
    else
      match drawStaticGlyph ⟨pos, ay, 4, l.glyphH⟩ (l.digits ⟨v % 10, Nat.mod_lt _ (by decide)⟩),
            drawDigits l ay n (pos - l.digitPitch) (v / 10) with
      | some a, some b => some (a ++ b)
      | _, _           => none

/-- DRAW_NUMBER (45_host_sequences.md R194): erase to white, clamp for display, digits right to left. -/
def drawNumber (l : HostLayout) (anchor : Nat × Nat) (value maxValue : Nat) : Option (List Instr) :=
  let v := min value maxValue
  match fillRect (l.eraseWindow anchor.1 anchor.2) white,
        drawDigits l anchor.2 (digitCount v) (l.rightmostX anchor.1 (digitCount v)) v with
  | some a, some b => some (a ++ b)
  | _, _           => none

/-- `drawScore(value)` (45_host_sequences.md R196). -/
def drawScore (l : HostLayout) (value : Nat) : Option (List Instr) := drawNumber l l.scoreAnchor value l.scoreMax

/-- `drawLevel(value)` (45_host_sequences.md R196). -/
def drawLevel (l : HostLayout) (value : Nat) : Option (List Instr) := drawNumber l l.levelAnchor value l.levelMax

/-- The static labels, each drawn once (45_host_sequences.md R193). The spec names the two and gives no order: that LEVEL
is drawn before SCORE is the model's DESIGN CHOICE (assumption log 32). -/
def drawLabels (l : HostLayout) : Option (List Instr) :=
  match drawStaticGlyph l.levelLabel.1 l.levelLabel.2, drawStaticGlyph l.scoreLabel.1 l.scoreLabel.2 with
  | some a, some b => some (a ++ b)
  | _, _           => none

/-- The requests of the boot order after block reset (70_reset_and_hazards.md R242, steps 2 and 3). -/
def bootRequests : List Instr := [.init, .displayOn]

/-! ### Priming and drawing samples (45_host_sequences.md R198) -/

/-- A feed of the extractor from the host's input polling: a bit, or one or two noise channels. -/
inductive Feed where
  | bit (b : Bool)
  | noise (two : Bool) (chA chB : Byte)
  deriving DecidableEq, Repr

/-- The request of a feed (41_entropy.md R161, R166). -/
def Feed.request : Feed → Instr
  | .bit b             => .exAddBit b
  | .noise two chA chB => .exAddNoise two chA chB

/-- The host's test after `available`: the loop ends when `VALUE` has reached `PRIME_TARGET`. -/
def primed (l : HostLayout) (s : State) : Bool := decide (l.primeTarget ≤ (respValue s.resp).toNat)

/-- The priming loop over the feeds that the input polling gives, `available` before each: it ends when `PRIME_TARGET` is
reached, and waits when it is not and there is no feed left. -/
def primeLoop (l : HostLayout) : List Feed → State → HostResult
  | [], s      => (hostIssue .exAvailable s).andThen fun t => if primed l t then .done t else .waiting t
  | f :: fs, s => (hostIssue .exAvailable s).andThen fun t =>
    if primed l t then .done t else (hostIssue f.request t).andThen fun u => primeLoop l fs u

/-- `prime`: none for a layout whose `PRIME_TARGET` is not in 0..K (00_scope.md R10). -/
def prime (l : HostLayout) (feeds : List Feed) (s : State) : Option HostResult :=
  if l.wf s.cfg then some (primeLoop l feeds s) else none

/-- `draw`, block-until-available: EX_NEXT until its response has `VALID = 1`, a feed before each retry; the sample is
the `VALUE` of the last response. It waits when there is no feed left. -/
def drawSample : List Feed → State → HostResult
  | [], s      => (hostIssue .exNext s).andThen fun t => if respValid t.resp then .done t else .waiting t
  | f :: fs, s => (hostIssue .exNext s).andThen fun t =>
    if respValid t.resp then .done t else (hostIssue f.request t).andThen fun u => drawSample fs u

/-! ### The glue loop (60_exceptions.md R230) -/

/-- At most `n` polls of `deadlineElapsed()`, a step of the machine between two of them. -/
def pollDeadline : Nat → State → HostResult
  | 0, s     => .waiting s
  | n + 1, s =>
    if s.deadlineElapsed then .done s
    else
      match step s with
      | .next t    => pollDeadline n t
      | .fault r   => .stuck r
      | .refused r => .refused r

/-- `await deadlineElapsed()`. Every step makes a scheduled move, takes a request off the port (a scheduled move may put
it there), or ends a request in progress; when all of them are made and the flag is still false, the host is waiting. -/
def awaitDeadline (s : State) : HostResult := pollDeadline (2 * s.env.length + s.port.length + 2) s

/-- One iteration of the glue loop: await the deadline, clear it, then the frame: the game's step, the rendering and the
noise feeds, any host sequence (the game engine is out of scope, 00_scope.md R8). -/
def glueIteration (frame : State → HostResult) (s : State) : HostResult :=
  (awaitDeadline s).andThen fun t => frame (t.move .clearDeadline)

/-- The glue loop, over the frames the game makes: one iteration each, until one of them does not get through. -/
def glueLoop : List (State → HostResult) → State → HostResult
  | [], s              => .done s
  | frame :: frames, s => (glueIteration frame s).andThen fun t => glueLoop frames t

end Sys2Proof.Machine
end

