-- ==== Sys2Proof/Safety.lean ====
section
/-! DEFINITION. What claims about the machine are stated with: the invariants of the spec, what a safe run is, the event
lists of the framer's procedures written out from the spec, and the views that a frame condition compares. -/

namespace Sys2Proof.Machine

/-! ### Invariants -/

/-- The extractor's invariants between requests (10_state.md R37), with the buffer's length (R31). -/
def ExtractorInv (k : Nat) (e : Extractor) : Prop :=
  e.buf.length = k ∧ e.avail ≤ k ∧ e.head < k ∧ e.tail < k ∧ e.tail = (e.head + e.avail) % k ∧
  e.nbits ≤ 2 ∧ e.cand.toNat < 2 ^ e.nbits ∧
  ∀ j, j < e.avail → (e.bufRead ((e.head + j) % k)).toNat ≤ 6

/-- The payload buffer has no byte past its `PAYLOAD_MAX`, is in canonical form, and `PL_LEN` is within it
(10_state.md R28). -/
def PayloadInv (s : State) : Prop :=
  s.plLen ≤ s.cfg.payloadMax ∧ s.plBuf.length ≤ s.cfg.payloadMax ∧ trimBytes s.plBuf = s.plBuf

/-- The reference receiver's lists stay in their ranges and its memory in canonical form (20_memory.md R71), and the draw of
its free pixels is one already counted, so that the next draw is a new one (R80). -/
def ReceiverInv (r : Receiver) : Prop :=
  r.args.length ≤ 4 ∧ r.pix.length ≤ 2 ∧ Memory.wf r.ram = true ∧ r.base < r.draws

/-- `RESP.STATUS` is the code of `FAULT`, and a faulted block is idle (60_exceptions.md R210, R212). -/
def FaultInv (s : State) : Prop := respStatus s.resp = s.fault.code ∧ (s.fault ≠ .none → s.seq = .idle)

/-- The invariant that every step keeps. -/
def MachineInv (s : State) : Prop :=
  s.cfg.wf = true ∧ ExtractorInv s.cfg.k s.ex ∧ PayloadInv s ∧ ReceiverInv s.rx ∧ FaultInv s

/-- The run's two fairness assumptions (60_exceptions.md R225, R227). -/
def Fair (s : State) : Prop := s.chanFair = true ∧ s.noiseFair = true

/-- Between requests: the sequencer is idle and the controller is not selected (40_framer.md R120; 20_memory.md R64). -/
def Quiescent (s : State) : Prop := s.seq = .idle ∧ s.lineCs = false

/-! ### Safe runs -/

/-- A correct end of a run: no fault (60_exceptions.md R213). -/
def NoFault (s : State) : Prop := s.fault = .none

/-- No block reset is scheduled. -/
def NoReset (s : State) : Prop := ∀ d, EnvMove.reset d ∉ s.env

/-- The host's obligation that every pixel write is preceded by the window it targets, with no other framer request
between (70_reset_and_hazards.md R245): `set` says whether the last framer request was SET_WINDOW. -/
def windowsBeforeWrites : Bool → List Instr → Bool
  | _, []                              => true
  | _, .setWindow _ _ _ _ :: is        => windowsBeforeWrites true is
  | set, .writePixels _ _ :: is        => set && windowsBeforeWrites false is
  | _, .sendCmd _ :: is                => windowsBeforeWrites false is
  | _, .sendData _ _ :: is             => windowsBeforeWrites false is
  | _, .init :: is                     => windowsBeforeWrites false is
  | _, .displayOn :: is                => windowsBeforeWrites false is
  | set, .exAddBit _ :: is             => windowsBeforeWrites set is
  | set, .exAddNoise _ _ _ :: is       => windowsBeforeWrites set is
  | set, .exNext :: is                 => windowsBeforeWrites set is
  | set, .exAvailable :: is            => windowsBeforeWrites set is
  | set, .exCapacity :: is             => windowsBeforeWrites set is

/-! ### The distribution of samples (41_entropy.md R164) -/

/-- The number of 1 bits of a candidate (41_entropy.md R164). -/
def onesOf (v : Sample) : Nat := (v.getLsbD 2).toNat + (v.getLsbD 1).toNat + (v.getLsbD 0).toNat

/-- The weight of a candidate whose bits are independent and 1 with odds `a` to `b`: its probability times `(a + b)^3`
(41_entropy.md R164). -/
def candidateWeight (a b : Nat) (v : Sample) : Nat := a ^ onesOf v * b ^ (3 - onesOf v)

/-- The eight ways three bits can fall. -/
def bitTriples : List (Bool × Bool × Bool) :=
  [(false, false, false), (false, false, true), (false, true, false), (false, true, true),
   (true, false, false), (true, false, true), (true, true, false), (true, true, true)]

/-- The weight of one bit that is 1 with odds `a` to `b`. -/
def bitWeight (a b : Nat) (x : Bool) : Nat := if x then a else b

/-- The weight of three independent bits. -/
def tripleWeight (a b : Nat) (t : Bool × Bool × Bool) : Nat := bitWeight a b t.1 * bitWeight a b t.2.1 * bitWeight a b t.2.2

/-- The extractor after three bits. -/
def Extractor.addTriple (k : Nat) (t : Bool × Bool × Bool) (e : Extractor) : Extractor :=
  ((e.addBit k t.1).addBit k t.2.1).addBit k t.2.2

/-! ### Events, written out from the spec -/

/-- The events of `cmd(c)` (40_framer.md R122). -/
def cmdEvents (c : Byte) : List BusEvent := [.wait, .dc true, .cs true, .tx c, .wait, .cs false]

/-- The events of one byte of `data` (40_framer.md R124). -/
def byteEvents (b : Byte) : List BusEvent := [.cs true, .tx b, .wait, .cs false]

/-- The bytes `data(L, r)` transmits, in order: `L` `r + 1` times (40_framer.md R124). -/
def sentBytes (bytes : List Byte) (r : Nat) : List Byte := (List.replicate (r + 1) bytes).flatten

/-- The events of `data(L, r)` (40_framer.md R124). -/
def dataEvents (bytes : List Byte) (r : Nat) : List BusEvent :=
  [.wait, .dc false] ++ (sentBytes bytes r).flatMap byteEvents

/-- Per-byte select framing (40_framer.md R126, R127): select is raised before and lowered after every single byte, with
the completion wait in between, and no other event touches it. -/
def selectFramed : List BusEvent → Bool
  | .cs true :: .tx _ :: .wait :: .cs false :: es => selectFramed es
  | .cs _ :: _                                    => false
  | .tx _ :: _                                    => false
  | .wait :: es                                   => selectFramed es
  | .dc _ :: es                                   => selectFramed es
  | .rst _ :: es                                  => selectFramed es
  | .dly _ :: es                                  => selectFramed es
  | []                                            => true

/-! ### What the controller receives -/

/-- The receiver after a list of data items (20_memory.md R70). -/
def Receiver.dataAll (c : Config) (bytes : List Byte) (r : Receiver) : Receiver :=
  bytes.foldl (fun r b => Receiver.data c b r) r

/-! ### Views -/

/-- The state with the external agents' own side left out: noise source, tick flag, host queue and schedule. -/
def State.blockView (s : State) : State :=
  { s with noise := [], tickDeadline := false, port := [], env := [], noiseDraws := 0 }

/-- The request completes, and the state after it is `u` but for what scheduled moves of other agents did meanwhile;
with nothing scheduled it is exactly `u`. -/
def CompletesAs (i : Instr) (s u : State) : Prop :=
  ∃ t, exec i s = .next t ∧ t.blockView = u.blockView ∧ (s.env = [] → t = u)

/-- The unconsumed accepted samples, oldest first (10_state.md R37). -/
def Extractor.queue (k : Nat) (e : Extractor) : List Sample :=
  (List.range e.avail).map fun j => e.bufRead ((e.head + j) % k)

/-- The values of 10_state.md R45 that the spec fixes, in a configuration; what it leaves free is not named here. That no
cell of the pixel memory is listed says that every one of them holds a free value (assumption log 5). -/
def ResetValues (c : Config) (t : State) : Prop :=
  t.cfg = c ∧ t.fault = .none ∧ t.frInit = .uninit ∧ t.lineCmd = false ∧ t.lineCs = false ∧ t.lineRst = true ∧
  t.seq = .idle ∧ t.resp = 0 ∧ t.plLen = 0 ∧ t.ex.buf.length = c.k ∧ t.ex.head = 0 ∧ t.ex.tail = 0 ∧ t.ex.avail = 0 ∧
  t.ex.cand = 0 ∧ t.ex.nbits = 0 ∧ t.busLog = [] ∧ t.rx.cmd = none ∧ t.rx.args = [] ∧ t.rx.pix = [] ∧ t.rx.ram = []

/-- Bit `j` is a reserved-zero bit of the request word with opcode `op` and bit 16 equal to `xor16`: the table of
30_encoding.md R91, by bit numbers. -/
def reservedBit (op xor16 j : Nat) : Bool :=
  if op = 0x01 then 8 ≤ j && j ≤ 55
  else if op = 0x03 then 48 ≤ j && j ≤ 55
  else if op = 0x05 ∨ op = 0x06 ∨ op = 0x12 ∨ op = 0x13 ∨ op = 0x14 then j ≤ 55
  else if op = 0x10 then 1 ≤ j && j ≤ 55
  else if op = 0x11 then (17 ≤ j && j ≤ 55) || (xor16 == 0 && j ≤ 7)
  else false

/-- A framer request (30_encoding.md R94). -/
def isFramer : Instr → Bool
  | .sendCmd _         => true
  | .sendData _ _      => true
  | .setWindow _ _ _ _ => true
  | .writePixels _ _   => true
  | .init              => true
  | .displayOn         => true
  | .exAddBit _        => false
  | .exAddNoise _ _ _  => false
  | .exNext            => false
  | .exAvailable       => false
  | .exCapacity        => false

end Sys2Proof.Machine
end

