-- ==== Sys2Proof/Certificates/Slice0/Obligations.lean ====
section
/-! DEFINITION. The statements about the machine, for the provers. OBLIGATIONS.json names for each the rules of spec/ it
rests on. -/

open Sys2Proof Sys2Proof.Machine

/-! ### Encoding and decode (30_encoding.md) -/

/-- Decode of an encoded well-formed request gives it back, payload included, in every configuration (R90-R99). -/
def Obligations.DecodeEncodeRoundTrip : Prop :=
  ∀ (c : Config) (i : Instr), i.wf c = true → decode c (encode i).word (encode i).payload = .ok i

/-- A word and payload that decode are the encoding of what they decode to: no bit of them is dropped (R91, R92). -/
def Obligations.EncodeDecodeRoundTrip : Prop :=
  ∀ (c : Config) (w : RequestWord) (p : List Byte) (i : Instr), decode c w p = .ok i → encode i = ⟨w, p⟩

/-- What decodes is well formed: channels in `NOISE_CHANNELS`, payload within `PAYLOAD_MAX` (R97, R99). -/
def Obligations.DecodedRequestsAreWellFormed : Prop :=
  ∀ (c : Config) (w : RequestWord) (p : List Byte) (i : Instr), decode c w p = .ok i → i.wf c = true

/-- A request delivered as bytes, the word most-significant byte first, is read back (20_memory.md R63). That the payload's
bytes follow the word's eight is the model's, DEDUCED (assumption log 27): R63 speaks of the request word only. -/
def Obligations.ByteDeliveryRoundTrip : Prop :=
  ∀ (r : Request), requestOfBytes (bytesOfRequest r) = some r

/-- The encoding examples of R108, all fourteen, in the configuration of `State.reset`. -/
def Obligations.DecodeReadsTheSpecsWords : Prop :=
  decode Config.reference 0x010000000000002A [] = .ok (.sendCmd 0x2A) ∧
  decode Config.reference 0x0200000400000000 [0x00, 0x02, 0x00, 0x81] = .ok (.sendData [0x00, 0x02, 0x00, 0x81] 0) ∧
  decode Config.reference 0x0300000000080080 [] = .ok (.setWindow 0 0 128 128) ∧
  decode Config.reference 0x030000A014005005 [] = .ok (.setWindow 10 20 5 5) ∧
  decode Config.reference 0x0400000300000001 [0xF0, 0x0F, 0x00] = .ok (.writePixels [0xF0, 0x0F, 0x00] 1) ∧
  decode Config.reference 0x0400000300001FFF [0xFF, 0xFF, 0xFF] = .ok (.writePixels [0xFF, 0xFF, 0xFF] 8191) ∧
  decode Config.reference 0x0500000000000000 [] = .ok .init ∧
  decode Config.reference 0x0600000000000000 [] = .ok .displayOn ∧
  decode Config.reference 0x1000000000000001 [] = .ok (.exAddBit true) ∧
  decode Config.reference 0x1100000000000500 [] = .ok (.exAddNoise false 5 0) ∧
  decode Config.reference 0x1100000000010506 [] = .ok (.exAddNoise true 5 6) ∧
  decode Config.reference 0x1200000000000000 [] = .ok .exNext ∧
  decode Config.reference 0x1300000000000000 [] = .ok .exAvailable ∧
  decode Config.reference 0x1400000000000000 [] = .ok .exCapacity

/-- A word whose opcode is none of R94's eleven is illegal, whatever its other bits and its payload (R100). -/
def Obligations.ReservedOpcodesAreIllegal : Prop :=
  (∀ (c : Config) (w : RequestWord) (p : List Byte),
    slice w 56 8 ∉ [0x01, 0x02, 0x03, 0x04, 0x05, 0x06, 0x10, 0x11, 0x12, 0x13, 0x14] →
    decode c w p = .error .reservedOpcode) ∧
  ((List.range 256).filter fun n => (opcodeOf n).isNone).length = 245

/-- A word with a reserved-zero bit set is illegal (R91, R99). -/
def Obligations.ReservedBitsAreIllegal : Prop :=
  ∀ (c : Config) (w : RequestWord) (p : List Byte) (j : Nat),
    reservedBit (slice w 56 8) (slice w 16 1) j = true → w.getLsbD j = true → ∃ e, decode c w p = .error e

/-- The payload and channel checks: a format-D payload has `LEN` bytes and at most `PAYLOAD_MAX`, no other request has
one, and the channels of EX_ADD_NOISE are in `NOISE_CHANNELS`, the second one 0 when it is not used (R97, R99, R100). -/
def Obligations.BadPayloadsAndChannelsAreIllegal : Prop :=
  ∀ (c : Config) (w : RequestWord) (p : List Byte),
    (slice w 56 8 = 0x02 ∨ slice w 56 8 = 0x04 → p.length ≠ slice w 32 24 ∨ c.payloadMax < slice w 32 24 →
      ∃ e, decode c w p = .error e) ∧
    (slice w 56 8 ≠ 0x02 → slice w 56 8 ≠ 0x04 → p ≠ [] → ∃ e, decode c w p = .error e) ∧
    (slice w 56 8 = 0x11 →
      (slice w 16 1 = 0 ∧ slice w 0 8 ≠ 0) ∨ BitVec.ofNat 8 (slice w 8 8) ∉ c.noiseChannels ∨
        (slice w 16 1 = 1 ∧ BitVec.ofNat 8 (slice w 0 8) ∉ c.noiseChannels) →
      ∃ e, decode c w p = .error e)

/-! ### The request port, faults and reset -/

/-- The port takes the oldest request when the block is idle and without a fault, and the step is its meaning. That one
step runs a whole request, and that a scheduled reset comes first, are the model's choices (assumption logs 7, 8). -/
def Obligations.StepRunsTheDecodedRequest : Prop :=
  ∀ (s : State) (r : Request) (rs : List Request) (i : Instr), s.seq = .idle → s.fault = .none → s.resetDue = false →
    s.port = r :: rs → decode s.cfg r.word r.payload = .ok i → step s = exec i { s with port := rs }

/-- A request that fails a check of R99 takes ILLEGAL_REQUEST with no other effect (a scheduled reset comes first:
assumption log 8). -/
def Obligations.IllegalRequestOnlyFaults : Prop :=
  ∀ (s : State) (r : Request) (rs : List Request) (e : DecodeError), s.seq = .idle → s.fault = .none →
    s.resetDue = false → s.port = r :: rs → decode s.cfg r.word r.payload = .error e →
    step s = .next { s with port := rs, fault := .illegalRequest, resp := 0x10000000 }

/-- Fault entry: the code in `FAULT` and `RESP.STATUS`, the sequencer idle, and nothing else (R212). -/
def Obligations.FaultEntryWritesOnlyItsRegisters : Prop :=
  ∀ (f : FaultCode) (s : State),
    s.raise f = { s with fault := f, resp := f.code.setWidth 32 <<< 28, seq := .idle } ∧
    respStatus (s.raise f).resp = f.code ∧ respValid (s.raise f).resp = false ∧ respValue (s.raise f).resp = 0

/-- A faulted block accepts no request: with nothing scheduled it has no step, else other agents move (R213). The
schedule and the name of the stuck state are the model's choice (assumption logs 8, 12). -/
def Obligations.FaultedBlockHasNoStepOfItsOwn : Prop :=
  ∀ (s : State), s.seq = .idle → s.fault ≠ .none →
    (s.env = [] → step s = .fault (.halted s.fault)) ∧
    (∀ m ms, s.env = m :: ms → step s = .next (({ s with env := ms } : State).move m))

/-- After a fault the block's state is quiescent until block reset: only the external agents' side and the channel's
busy bit can change, and issued requests only queue up (R213). -/
def Obligations.FaultLastsUntilReset : Prop :=
  ∀ (s t : State), s.seq = .idle → s.fault ≠ .none → NoReset s → step s = .next t →
    t.blockView = ({ s with chBusy := t.chBusy } : State).blockView ∧ ∃ rs, t.port = s.port ++ rs

/-- Reset leaves the values of R45, whatever the free draw. No cell of the pixel memory is listed: each holds
a free value, R80's "any value" (assumption log 5). The configuration is a field (assumption log 14). -/
def Obligations.ResetLeavesTheSpecsValues : Prop :=
  ∀ (c : Config) (d : ResetDraw), ResetValues c (State.resetWith c d) ∧
    (State.resetWith c d).chBusy = d.chBusy ∧ (State.resetWith c d).tickDeadline = d.tickDeadline

/-- After reset the block does nothing on its own (70_reset_and_hazards.md R241). That waiting is a step which changes
nothing is the model's choice (assumption log 13). -/
def Obligations.ResetBlockWaitsForARequest : Prop :=
  ∀ (c : Config) (d : ResetDraw), step (State.resetWith c d) = .next (State.resetWith c d)

/-- Block reset, in an idle or faulted block, in the middle of `Wait()`, and in the middle of an await of EX_ADD_NOISE,
its first or its second: R45's values, `CH_BUSY` and `TICK_DEADLINE` as drawn, and the request in progress abandoned
without a response (70_reset_and_hazards.md R240). The model's own: where a reset can fall (assumption log 8), a free
value in every pixel (log 5), the configuration as it was (log 14), and the rest of the schedule as it was (log 22, DEDUCED). -/
def Obligations.BlockResetRestoresTheResetState : Prop :=
  ∀ (s : State) (d : ResetDraw) (ms : List EnvMove), s.env = .reset d :: ms →
    s.seq = .idle ∨
      (∃ req pos bit ps, s.seq = .busy req pos bit ∧ (s.program req).drop pos = .wait :: ps ∧ s.chBusy = true) ∨
      (∃ req pos bit ps ch, s.seq = .busy req pos bit ∧ (s.program req).drop pos = .readNoise ch :: ps ∧
        s.noiseReady ch = false) →
    ∃ t, step s = .next t ∧ ResetValues s.cfg t ∧ t.chBusy = d.chBusy ∧ t.tickDeadline = d.tickDeadline ∧ t.env = ms

/-- A step is a finite path of the agents' finest steps: one primitive of the sequencer, or one move of another agent,
at a time (00_scope.md R5, R13; 10_state.md R26). Where the step is stuck, no agent has a finest step. That a step runs
to the response is the model's choice (assumption log 7). -/
def Obligations.StepIsAPathOfMicroSteps : Prop :=
  (∀ (s t : State), step s = .next t → ∃ n, microRun n s = .next t) ∧
  (∀ (s : State) (f : Fault), step s = .fault f → microStep s = .fault f)

/-- A channel that never clears busy: the sequencer in `Wait()` has no step (60_exceptions.md R225). The stuck state's
name is the model's choice (assumption log 12). -/
def Obligations.StuckChannelHangsTheSequencer : Prop :=
  ∀ (s : State) (req : Instr) (pos : Nat) (bit : Bool) (ps : List Prim), s.seq = .busy req pos bit →
    (s.program req).drop pos = .wait :: ps → s.chBusy = true → s.env = [] → s.chanFair = false →
    step s = .fault .channelHang

/-- SEND_CMD on a channel that takes the byte and never completes it: four events, the byte at the controller, select
still raised, and the request in progress at its second wait, without a response (60_exceptions.md R225). -/
def Obligations.SendCmdStaysInProgressOnAStuckChannel : Prop :=
  ∀ (s : State) (b : Byte), s.frInit = .ready → s.chBusy = false → s.env = [] → s.chanFair = false →
    exec (.sendCmd b) s = .next { s with
      busLog := s.busLog ++ [.wait, .dc true, .cs true, .tx b]
      lineCmd := true
      lineCs := true
      chBusy := true
      rx := Receiver.command s.cfg b s.rx
      seq := .busy (.sendCmd b) 5 false }

/-! ### Bus events (20_memory.md) -/

/-- `DC(b)` writes `LINE_CMD`, `CS(b)` writes `LINE_CS`, `DLY(n)` and `WAIT` write nothing, each but for the log (R56-R59,
R62). -/
def Obligations.LineEventsWriteOnlyTheirLine : Prop :=
  ∀ (s : State),
    (∀ b, s.emit (.dc b) = { s with busLog := s.busLog ++ [.dc b], lineCmd := b }) ∧
    (∀ b, s.emit (.cs b) = { s with busLog := s.busLog ++ [.cs b], lineCs := b }) ∧
    (∀ n, s.emit (.dly n) = { s with busLog := s.busLog ++ [.dly n] }) ∧
    s.emit .wait = { s with busLog := s.busLog ++ [.wait] }

/-- `TX(v)`: the channel is busy, and the controller receives the byte only while selected, as command or data by the
mode line (R60). -/
def Obligations.TxReachesTheSelectedController : Prop :=
  ∀ (s : State) (v : Byte),
    (s.lineCs = false → s.emit (.tx v) = { s with busLog := s.busLog ++ [.tx v], chBusy := true }) ∧
    (s.lineCs = true → s.lineCmd = true → s.emit (.tx v) =
      { s with busLog := s.busLog ++ [.tx v], chBusy := true, rx := Receiver.command s.cfg v s.rx }) ∧
    (s.lineCs = true → s.lineCmd = false → s.emit (.tx v) =
      { s with busLog := s.busLog ++ [.tx v], chBusy := true, rx := Receiver.data s.cfg v s.rx })

/-! ### Framer requests (40_framer.md) -/

/-- Every framer request but INIT raises NOT_READY before INIT, INIT raises ALREADY_INIT after it, in both cases before
any event. The payload of a format-D request was loaded by the port with its decode (30_encoding.md R97; log 11). -/
def Obligations.ReadyCheckComesFirst : Prop :=
  (∀ (s : State), s.frInit = .uninit →
    (∀ b, exec (.sendCmd b) s = .next { s with fault := .notReady, resp := 0x20000000, seq := .idle }) ∧
    (∀ p r, exec (.sendData p r) s = .next { s with
      plBuf := loadBytes p s.plBuf, plLen := p.length, fault := .notReady, resp := 0x20000000, seq := .idle }) ∧
    (∀ x y w h, exec (.setWindow x y w h) s = .next { s with fault := .notReady, resp := 0x20000000, seq := .idle }) ∧
    (∀ p r, exec (.writePixels p r) s = .next { s with
      plBuf := loadBytes p s.plBuf, plLen := p.length, fault := .notReady, resp := 0x20000000, seq := .idle }) ∧
    exec .displayOn s = .next { s with fault := .notReady, resp := 0x20000000, seq := .idle }) ∧
  (∀ (s : State), s.frInit = .ready →
    exec .init s = .next { s with fault := .alreadyInit, resp := 0x30000000, seq := .idle })

/-- SET_WINDOW of a ready block raises INVALID_WINDOW exactly for an empty window or one past the panel, before any
event (R129). -/
def Obligations.WindowCheckRefusesExactlyBadWindows : Prop :=
  ∀ (s : State) (x y w h : BitVec 12), s.frInit = .ready →
    (w.toNat = 0 ∨ h.toNat = 0 ∨ s.cfg.panelW < x.toNat + w.toNat ∨ s.cfg.panelH < y.toNat + h.toNat →
      exec (.setWindow x y w h) s = .next { s with fault := .invalidWindow, resp := 0x40000000, seq := .idle }) ∧
    (1 ≤ w.toNat → 1 ≤ h.toNat → x.toNat + w.toNat ≤ s.cfg.panelW → y.toNat + h.toNat ≤ s.cfg.panelH → NoReset s →
      ∃ t, exec (.setWindow x y w h) s = .next t ∧ t.fault = s.fault)

/-- SEND_CMD completes: the six events of `cmd`, the byte received as a command, OK, and nothing else changed
(40_framer.md R122, R123). `CompletesAs` says that `exec` answers a next state and which; what scheduled moves of other
agents did meanwhile is the only difference (assumption log 8). -/
def Obligations.SendCmdCompletes : Prop :=
  ∀ (s : State) (b : Byte), s.frInit = .ready → s.chanFair = true → NoReset s →
    CompletesAs (.sendCmd b) s { s with
      busLog := s.busLog ++ cmdEvents b
      lineCmd := true
      lineCs := false
      chBusy := false
      rx := Receiver.command s.cfg b s.rx
      resp := 0
      seq := .idle }

/-- SEND_DATA completes: the payload loaded, and sent `REPEAT + 1` times in data mode. With no byte to send, select is not
touched. The load writes the payload buffer's first `LEN` bytes and leaves the others as they were (R97). -/
def Obligations.SendDataCompletes : Prop :=
  ∀ (s : State) (p : List Byte) (r : BitVec 32), s.frInit = .ready → s.chanFair = true → NoReset s →
    CompletesAs (.sendData p r) s { s with
      plBuf := loadBytes p s.plBuf
      plLen := p.length
      busLog := s.busLog ++ dataEvents p r.toNat
      lineCmd := false
      lineCs := if p = [] then s.lineCs else false
      chBusy := false
      rx := Receiver.dataAll s.cfg (sentBytes p r.toNat) s.rx
      resp := 0
      seq := .idle } ∧
    (∀ i, byteAt (loadBytes p s.plBuf) i = if i < p.length then p.getD i 0 else byteAt s.plBuf i)

/-- SET_WINDOW completes for a window on the panel: column set, then row set, margins added, first and last coordinate
as 16 bits high byte first (R128, R130). -/
def Obligations.SetWindowCompletes : Prop :=
  ∀ (s : State) (x y w h : BitVec 12), s.frInit = .ready → s.chanFair = true → NoReset s →
    1 ≤ w.toNat → 1 ≤ h.toNat → x.toNat + w.toNat ≤ s.cfg.panelW → y.toNat + h.toNat ≤ s.cfg.panelH →
    ∀ cols rows : List Byte,
      cols = [hi8 (s.cfg.marginX + x.toNat), lo8 (s.cfg.marginX + x.toNat),
              hi8 (s.cfg.marginX + x.toNat + w.toNat - 1), lo8 (s.cfg.marginX + x.toNat + w.toNat - 1)] →
      rows = [hi8 (s.cfg.marginY + y.toNat), lo8 (s.cfg.marginY + y.toNat),
              hi8 (s.cfg.marginY + y.toNat + h.toNat - 1), lo8 (s.cfg.marginY + y.toNat + h.toNat - 1)] →
      CompletesAs (.setWindow x y w h) s { s with
        busLog := s.busLog ++ cmdEvents s.cfg.cmdCaset ++ dataEvents cols 0 ++
          cmdEvents s.cfg.cmdRaset ++ dataEvents rows 0
        lineCmd := false
        lineCs := false
        chBusy := false
        rx := Receiver.dataAll s.cfg rows (Receiver.command s.cfg s.cfg.cmdRaset
          (Receiver.dataAll s.cfg cols (Receiver.command s.cfg s.cfg.cmdCaset s.rx)))
        resp := 0
        seq := .idle }

/-- WRITE_PIXELS completes: the memory-write command, then the payload `REPEAT + 1` times (R133). -/
def Obligations.WritePixelsCompletes : Prop :=
  ∀ (s : State) (p : List Byte) (r : BitVec 32), s.frInit = .ready → s.chanFair = true → NoReset s →
    CompletesAs (.writePixels p r) s { s with
      plBuf := loadBytes p s.plBuf
      plLen := p.length
      busLog := s.busLog ++ cmdEvents s.cfg.cmdRamwr ++ dataEvents p r.toNat
      lineCmd := false
      lineCs := false
      chBusy := false
      rx := Receiver.dataAll s.cfg (sentBytes p r.toNat) (Receiver.command s.cfg s.cfg.cmdRamwr s.rx)
      resp := 0
      seq := .idle }

/-- INIT completes: reset pulse with its delays, sleep-out with its delay, color mode, memory access control, and the
framer is ready (R140). The receiver is reset at `RST(true)` (R61, R80; OnlyInitDrivesPanelReset says what that does); the
form of its unconstrained values (free values of a counted draw) is the model's choice
(assumption log 6). -/
def Obligations.InitCompletes : Prop :=
  ∀ (s : State), s.frInit = .uninit → s.chanFair = true → NoReset s →
    CompletesAs .init s { s with
      busLog := s.busLog ++ [.rst true, .dly s.cfg.dRstHold, .rst false, .dly s.cfg.dRstSettle] ++
        cmdEvents s.cfg.cmdSlpout ++ [.dly s.cfg.dSlpout] ++
        cmdEvents s.cfg.cmdColmod ++ dataEvents [s.cfg.colmodRgb444] 0 ++
        cmdEvents s.cfg.cmdMadctl ++ dataEvents [s.cfg.madctlParam] 0
      frInit := .ready
      lineRst := false
      lineCmd := false
      lineCs := false
      chBusy := false
      rx := Receiver.data s.cfg s.cfg.madctlParam (Receiver.command s.cfg s.cfg.cmdMadctl
        (Receiver.data s.cfg s.cfg.colmodRgb444 (Receiver.command s.cfg s.cfg.cmdColmod
          (Receiver.command s.cfg s.cfg.cmdSlpout s.rx.panelReset))))
      resp := 0
      seq := .idle }

/-- DISPLAY_ON completes: the settle delay, then the display-on command (R144). -/
def Obligations.DisplayOnCompletes : Prop :=
  ∀ (s : State), s.frInit = .ready → s.chanFair = true → NoReset s →
    CompletesAs .displayOn s { s with
      busLog := s.busLog ++ [.dly s.cfg.dDispon] ++ cmdEvents s.cfg.cmdDispon
      lineCmd := true
      lineCs := false
      chBusy := false
      rx := Receiver.command s.cfg s.cfg.cmdDispon s.rx
      resp := 0
      seq := .idle }

/-- The event counts of the accepted framer requests (70_reset_and_hazards.md R251). -/
def Obligations.EventCounts : Prop :=
  ∀ (s t : State), s.chanFair = true → NoReset s →
    (∀ b, s.frInit = .ready → exec (.sendCmd b) s = .next t → t.busLog.length = s.busLog.length + 6) ∧
    (∀ p r, s.frInit = .ready → exec (.sendData p r) s = .next t →
      t.busLog.length = s.busLog.length + (2 + 4 * p.length * (r.toNat + 1))) ∧
    (∀ x y w h, s.frInit = .ready → windowOk s.cfg x.toNat y.toNat w.toNat h.toNat = true →
      exec (.setWindow x y w h) s = .next t → t.busLog.length = s.busLog.length + 48) ∧
    (∀ p r, s.frInit = .ready → exec (.writePixels p r) s = .next t →
      t.busLog.length = s.busLog.length + (8 + 4 * p.length * (r.toNat + 1))) ∧
    (s.frInit = .uninit → exec .init s = .next t → t.busLog.length = s.busLog.length + 35) ∧
    (s.frInit = .ready → exec .displayOn s = .next t → t.busLog.length = s.busLog.length + 7)

/-- Device-select is toggled around every single byte, in every request of every operand (R126, R127). -/
def Obligations.EveryByteIsFramedBySelect : Prop :=
  ∀ (i : Instr) (s t : State), s.chanFair = true → NoReset s → exec i s = .next t →
    ∃ es, t.busLog = s.busLog ++ es ∧ selectFramed es = true

/-- A framer request never writes the extractor's state, the tick flag or the noise source, whatever the channel does
(R120); with nothing scheduled the external agents' side is as it was. -/
def Obligations.FramerLeavesTheExtractorAlone : Prop :=
  ∀ (i : Instr) (s t : State), isFramer i = true → NoReset s → exec i s = .next t →
    t.ex = s.ex ∧ t.cfg = s.cfg ∧ (s.env = [] → t.noise = s.noise ∧ t.tickDeadline = s.tickDeadline ∧ t.port = s.port)

/-- An extractor request emits no event and never touches the framer's state, ready or not, full or not (41 R160). -/
def Obligations.ExtractorLeavesTheFramerAlone : Prop :=
  ∀ (i : Instr) (s t : State), isFramer i = false → NoReset s → exec i s = .next t →
    t.busLog = s.busLog ∧ t.frInit = s.frInit ∧ t.lineCmd = s.lineCmd ∧ t.lineCs = s.lineCs ∧ t.lineRst = s.lineRst ∧
    t.rx = s.rx ∧ t.plBuf = s.plBuf ∧ t.plLen = s.plLen ∧ t.fault = s.fault ∧ t.cfg = s.cfg

/-- Only INIT drives the panel reset line (10_state.md R25), by the event `RST(b)`, which writes the line and the log; and
`RST(true)` clears the receiver's command, arguments and incomplete pattern, and every pixel holds a free value after it
(20_memory.md R61, R80), of a draw that is the model's to count (assumption logs 5, 6). -/
def Obligations.OnlyInitDrivesPanelReset : Prop :=
  (∀ (i : Instr) (s t : State), i ≠ .init → NoReset s → exec i s = .next t → t.lineRst = s.lineRst) ∧
  (∀ (s : State), ∃ r, s.emit (.rst true) = { s with busLog := s.busLog ++ [.rst true], lineRst := true, rx := r } ∧
    r.cmd = none ∧ r.args = [] ∧ r.pix = [] ∧
    ∀ col row, r.pixelAt col row = Config.freePixel s.rx.draws (cellKey col row)) ∧
  (∀ (s : State), s.emit (.rst false) = { s with busLog := s.busLog ++ [.rst false], lineRst := false })

/-- WRITE_PIXELS is, on the wire and at the controller, SEND_CMD of the memory-write command followed by SEND_DATA
(R133). -/
def Obligations.WritePixelsIsCommandThenData : Prop :=
  ∀ (s t u v : State) (p : List Byte) (r : BitVec 32), s.frInit = .ready → s.chanFair = true → s.env = [] →
    exec (.writePixels p r) s = .next t → exec (.sendCmd s.cfg.cmdRamwr) s = .next u →
    exec (.sendData p r) u = .next v → t = v

/-! ### What the controller holds (20_memory.md) -/

/-- After SET_WINDOW the receiver's window is the logical one with the margins added, last coordinates inclusive, and no
pixel has changed (R73, R79; 40_framer.md R130). The three command bytes are distinct: what the receiver does where two
are equal is the model's (assumption log 25). -/
def Obligations.SetWindowReachesTheReceiver : Prop :=
  ∀ (s t : State) (x y w h : BitVec 12), s.cfg.wf = true → s.cfg.cmdCaset ≠ s.cfg.cmdRaset →
    s.cfg.cmdRamwr ≠ s.cfg.cmdCaset → s.cfg.cmdRamwr ≠ s.cfg.cmdRaset → s.frInit = .ready → s.chanFair = true →
    NoReset s → windowOk s.cfg x.toNat y.toNat w.toNat h.toNat = true → exec (.setWindow x y w h) s = .next t →
    t.rx.xs.toNat = s.cfg.marginX + x.toNat ∧ t.rx.xe.toNat = s.cfg.marginX + x.toNat + w.toNat - 1 ∧
    t.rx.ys.toNat = s.cfg.marginY + y.toNat ∧ t.rx.ye.toNat = s.cfg.marginY + y.toNat + h.toNat - 1 ∧
    t.rx.ram = s.rx.ram ∧ ∀ col row, t.rx.pixelAt col row = s.rx.pixelAt col row

/-- Filling a window with one color, by SET_WINDOW and WRITE_PIXELS with the repeat of R190, paints every pixel of the
logical window and no other cell, for odd areas too (45 R190, R191), under the receiver's default scan and wrap. -/
def Obligations.FillRectPaintsExactlyItsWindow : Prop :=
  ∀ (s : State) (x y w h : BitVec 12) (c0 c1 c2 : Byte) (color : Pixel),
    s.cfg.wf = true → s.cfg.rxScan = .rowMajor → s.cfg.rxWrap = .toStart →
    s.cfg.cmdCaset ≠ s.cfg.cmdRaset → s.cfg.cmdCaset ≠ s.cfg.cmdRamwr → s.cfg.cmdRaset ≠ s.cfg.cmdRamwr →
    Memory.wf s.rx.ram = true → s.frInit = .ready → s.chanFair = true → NoReset s →
    windowOk s.cfg x.toNat y.toNat w.toNat h.toNat = true →
    firstPixel c0 c1 = color → secondPixel c1 c2 = color →
    ∃ t u, exec (.setWindow x y w h) s = .next t ∧
      exec (.writePixels [c0, c1, c2] (BitVec.ofNat 32 (fillRepeat w.toNat h.toNat))) t = .next u ∧
      u.seq = .idle ∧ u.fault = s.fault ∧
      (∀ px py, x.toNat ≤ px → px < x.toNat + w.toNat → y.toNat ≤ py → py < y.toNat + h.toNat →
        Receiver.logicalPixel s.cfg u.rx px py = some color) ∧
      (∀ col row, col < 65536 → row < 65536 →
        ¬ (s.cfg.marginX + x.toNat ≤ col ∧ col < s.cfg.marginX + x.toNat + w.toNat ∧
           s.cfg.marginY + y.toNat ≤ row ∧ row < s.cfg.marginY + y.toNat + h.toNat) →
        u.rx.pixelAt col row = s.rx.pixelAt col row)

/-- The memory-write command restarts the pointer at the window's first pixel and drops an incomplete pattern; any other
command leaves pointer, window and memory alone (R72, R78). -/
def Obligations.CommandsMoveOnlyTheWritePointer : Prop :=
  ∀ (c : Config) (r : Receiver) (b : Byte),
    (b = c.cmdRamwr → Receiver.command c b r =
      { r with cmd := some b, args := [], pix := [], cx := r.xs, cy := r.ys }) ∧
    (b ≠ c.cmdRamwr → Receiver.command c b r = { r with cmd := some b, args := [], pix := [] })

/-- Data after no command, or after a command other than column set, row set and memory write, is ignored, whatever the
command (color mode, memory access control); and such a command itself changes only the command, the arguments and the
incomplete pattern (R78). -/
def Obligations.OtherDataIsIgnored : Prop :=
  ∀ (c : Config) (r : Receiver) (d : Byte),
    ((∀ b, r.cmd = some b → b ≠ c.cmdCaset ∧ b ≠ c.cmdRaset ∧ b ≠ c.cmdRamwr) → Receiver.data c d r = r) ∧
    (∀ b, b ≠ c.cmdRamwr → Receiver.command c b r = { r with cmd := some b, args := [], pix := [] })

/-- The third byte after the memory-write command writes two pixels, the first at the pointer and the second one place on
in row order, wrapping at the window's right edge and end, and no other cell changes (R75, R76). The nibble layout and the
defaults are the spec's own choice (assumption logs 17, 18). Where the window is empty, under any scan and wrap, every cell
holds a free value after it, of a draw not made before (R77; the count of draws is assumption logs 6, 19). -/
def Obligations.ThreeBytesWriteTwoPixels : Prop :=
  (∀ (c : Config) (r : Receiver) (b0 b1 b2 : Byte) (row nx ny : Nat) (p1 p2 : Pixel),
    c.rxScan = .rowMajor → c.rxWrap = .toStart → r.cmd = some c.cmdRamwr → c.cmdRamwr ≠ c.cmdCaset →
    c.cmdRamwr ≠ c.cmdRaset → r.pix = [b0, b1] → r.xs.toNat ≤ r.xe.toNat → r.ys.toNat ≤ r.ye.toNat →
    Memory.wf r.ram = true →
    p1.toNat = b0.toNat * 16 + b1.toNat / 16 → p2.toNat = b1.toNat % 16 * 256 + b2.toNat →
    nx = (if r.xe.toNat < r.cx.toNat + 1 then r.xs.toNat else r.cx.toNat + 1) →
    row = (if r.xe.toNat < r.cx.toNat + 1 then r.cy.toNat + 1 else r.cy.toNat) →
    ny = (if r.ye.toNat < row then r.ys.toNat else row) →
    (Receiver.data c b2 r).pix = [] ∧
    (Receiver.data c b2 r).pixelAt nx ny = p2 ∧
    ((nx, ny) ≠ (r.cx.toNat, r.cy.toNat) → (Receiver.data c b2 r).pixelAt r.cx.toNat r.cy.toNat = p1) ∧
    ∀ col line, col < 65536 → line < 65536 → (col, line) ≠ (r.cx.toNat, r.cy.toNat) → (col, line) ≠ (nx, ny) →
      (Receiver.data c b2 r).pixelAt col line = r.pixelAt col line) ∧
  (∀ (c : Config) (r : Receiver) (b0 b1 b2 : Byte), r.cmd = some c.cmdRamwr → c.cmdRamwr ≠ c.cmdCaset →
    c.cmdRamwr ≠ c.cmdRaset → r.pix = [b0, b1] → r.xe.toNat < r.xs.toNat ∨ r.ye.toNat < r.ys.toNat →
    (Receiver.data c b2 r).pix = [] ∧
    ∃ n, r.draws ≤ n ∧ ∀ col line, (Receiver.data c b2 r).pixelAt col line = Config.freePixel n (cellKey col line))

/-! ### Extractor requests (41_entropy.md) -/

/-- EX_ADD_BIT, the five steps of R161: the response is OK in every case, and nothing but the extractor's fields and the
response changes. It is said of every state: outside R37's invariant, which no run leaves, that the candidate is taken
modulo 8 and that a write past the buffer changes nothing is the model's (assumption logs 20, 30). -/
def Obligations.AddBitFollowsTheFiveSteps : Prop :=
  ∀ (s : State) (b : Bool) (v : BitVec 3), v.toNat = (2 * s.ex.cand.toNat + b.toNat) % 8 →
    exec (.exAddBit b) s = .next { s with
      ex :=
        if s.ex.avail = s.cfg.k then s.ex
        else if s.ex.nbits + 1 < 3 then { s.ex with cand := v, nbits := s.ex.nbits + 1 }
        else if v.toNat < 7 then { s.ex with
          buf := s.ex.buf.set s.ex.tail v
          tail := (s.ex.tail + 1) % s.cfg.k
          avail := s.ex.avail + 1
          cand := 0
          nbits := 0 }
        else { s.ex with cand := 0, nbits := 0 }
      resp := 0
      seq := .idle }

/-- Three bits added from an empty candidate: the first is the most significant; 0 to 6 joins the queue at its end, 7 is
rejected (R163, R172). -/
def Obligations.ThreeBitsFormOneCandidate : Prop :=
  ∀ (s t u v : State) (b1 b2 b3 : Bool), ExtractorInv s.cfg.k s.ex → s.ex.avail < s.cfg.k → s.ex.nbits = 0 →
    exec (.exAddBit b1) s = .next t → exec (.exAddBit b2) t = .next u → exec (.exAddBit b3) u = .next v →
    v.ex.nbits = 0 ∧ v.ex.cand = 0 ∧
    (4 * b1.toNat + 2 * b2.toNat + b3.toNat < 7 → v.ex.queue v.cfg.k =
      s.ex.queue s.cfg.k ++ [BitVec.ofNat 3 (4 * b1.toNat + 2 * b2.toNat + b3.toNat)]) ∧
    (4 * b1.toNat + 2 * b2.toNat + b3.toNat = 7 → v.ex.queue v.cfg.k = s.ex.queue s.cfg.k)

/-- The distribution of R164, an inference the spec draws from R161: of the eight ways three independent bits can fall,
with odds `a` to `b` for a 1, those that bring the sample `v` weigh what R164 gives it; the seven samples weigh the same
exactly for even odds; and for odds 3 to 1 they weigh 1, 3, 3, 9, 3, 9, 9. -/
def Obligations.AcceptedSamplesFollowTheirWeights : Prop :=
  (∀ (s : State) (v : Sample) (a b : Nat), ExtractorInv s.cfg.k s.ex → s.ex.avail < s.cfg.k → s.ex.nbits = 0 →
    v.toNat < 7 →
    ((bitTriples.filter fun t => (s.ex.addTriple s.cfg.k t).queue s.cfg.k = s.ex.queue s.cfg.k ++ [v]).map
      (tripleWeight a b)).sum = candidateWeight a b v) ∧
  (∀ (a b : Nat), 0 < b → ((∀ v w : Sample, v.toNat < 7 → w.toNat < 7 →
    candidateWeight a b v = candidateWeight a b w) ↔ a = b)) ∧
  ([0, 1, 2, 3, 4, 5, 6].map fun n => candidateWeight 3 1 (BitVec.ofNat 3 n)) = [1, 3, 3, 9, 3, 9, 9]

/-- A full buffer discards the bit, from EX_ADD_BIT and from EX_ADD_NOISE, and answers OK (R162, R178). -/
def Obligations.FullBufferDiscardsTheBit : Prop :=
  ∀ (s : State), s.ex.avail = s.cfg.k →
    (∀ b, exec (.exAddBit b) s = .next { s with resp := 0, seq := .idle }) ∧
    (∀ two a b t, NoReset s → s.noiseFair = true → exec (.exAddNoise two a b) s = .next t →
      t.ex = s.ex ∧ t.resp = 0 ∧ t.seq = .idle)

/-- EX_NEXT takes the oldest sample: it is the response's VALUE with VALID = 1, and the rest of the queue keeps its order
(R170, R172). -/
def Obligations.NextTakesTheOldestSample : Prop :=
  ∀ (s : State) (v : Sample) (rest : List Sample), ExtractorInv s.cfg.k s.ex → s.ex.queue s.cfg.k = v :: rest →
    ∃ t, exec .exNext s = .next t ∧ t.ex.queue s.cfg.k = rest ∧
      respValid t.resp = true ∧ respStatus t.resp = 0 ∧ (respValue t.resp).toNat = v.toNat ∧
      t = { s with
        ex := { s.ex with head := (s.ex.head + 1) % s.cfg.k, avail := s.ex.avail - 1 }
        resp := t.resp
        seq := .idle }

/-- EX_NEXT on an empty buffer: the fallback in VALUE, VALID = 0, no state change (R170, R171). -/
def Obligations.NextOnEmptyAnswersTheFallback : Prop :=
  ∀ (s : State), s.ex.avail = 0 →
    exec .exNext s = .next { s with resp := s.cfg.fallback.setWidth 32, seq := .idle } ∧
    respValid (s.cfg.fallback.setWidth 32) = false

/-- EX_AVAILABLE and EX_CAPACITY answer the count and `K` with VALID = 1 and change nothing else (R174, R176). -/
def Obligations.AccessorsAnswerCountAndCapacity : Prop :=
  ∀ (s : State), s.cfg.wf = true → s.ex.avail ≤ s.cfg.k →
    (∃ r, exec .exAvailable s = .next { s with resp := r, seq := .idle } ∧
      respStatus r = 0 ∧ respValid r = true ∧ (respValue r).toNat = s.ex.avail) ∧
    (∃ r, exec .exCapacity s = .next { s with resp := r, seq := .idle } ∧
      respStatus r = 0 ∧ respValid r = true ∧ (respValue r).toNat = s.cfg.k)

/-- EX_ADD_NOISE on one channel reads its first ready sample, once, and adds bit 0 of it (R166). That a read takes the
sample from the channel's queue is the model's choice (assumption log 10). -/
def Obligations.AddNoiseUsesBitZeroOfOneSample : Prop :=
  ∀ (s : State) (a b : Byte) (v : Nat) (before later : List NoiseSample), s.noise = before ++ ⟨a, v⟩ :: later →
    (∀ n ∈ before, n.channel ≠ a) →
    exec (.exAddNoise false a b) s = .next { s with
      ex := s.ex.addBit s.cfg.k (v % 2 == 1)
      noise := before ++ later
      resp := 0
      seq := .idle }

/-- EX_ADD_NOISE on two channels adds the xor of bit 0 of both samples; on the same channel twice these are two
successive samples (R166; the queue of samples is assumption log 10). -/
def Obligations.AddNoiseXorsTwoSamples : Prop :=
  ∀ (s : State) (a b : Byte) (v w : Nat) (before later before' later' : List NoiseSample),
    s.noise = before ++ ⟨a, v⟩ :: later → (∀ n ∈ before, n.channel ≠ a) →
    before ++ later = before' ++ ⟨b, w⟩ :: later' → (∀ n ∈ before', n.channel ≠ b) →
    exec (.exAddNoise true a b) s = .next { s with
      ex := s.ex.addBit s.cfg.k ((v % 2 == 1) ^^ (w % 2 == 1))
      noise := before' ++ later'
      resp := 0
      seq := .idle }

/-- EX_ADD_NOISE completes under NOISE_FAIR whatever is ready now, with some bit: the sample is a free draw (R166,
R227; assumption logs 9, 10). -/
def Obligations.AddNoiseCompletesUnderFairness : Prop :=
  ∀ (s : State) (two : Bool) (a b : Byte), s.noiseFair = true → NoReset s →
    ∃ t bit, exec (.exAddNoise two a b) s = .next t ∧ t.ex = s.ex.addBit s.cfg.k bit ∧ t.resp = 0 ∧ t.seq = .idle ∧
      t.busLog = s.busLog ∧ t.fault = s.fault ∧ t.frInit = s.frInit

/-- A noise channel that never becomes ready, the first or, its first sample read, the second: the request stays in
progress and the block has no step (60_exceptions.md R227; the stuck state's name is assumption log 12, the queue of
samples log 10). -/
def Obligations.StuckNoiseChannelHangsTheRequest : Prop :=
  (∀ (s : State) (two : Bool) (a b : Byte), s.noiseFair = false → s.env = [] → (∀ n ∈ s.noise, n.channel ≠ a) →
    exec (.exAddNoise two a b) s = .next { s with seq := .busy (.exAddNoise two a b) 0 false } ∧
    step { s with seq := .busy (.exAddNoise two a b) 0 false } = .fault (.noiseHang a)) ∧
  (∀ (s t : State) (a b : Byte) (v : Nat) (before later : List NoiseSample), s.noiseFair = false → s.env = [] →
    s.noise = before ++ ⟨a, v⟩ :: later → (∀ n ∈ before, n.channel ≠ a) → (∀ n ∈ before ++ later, n.channel ≠ b) →
    t = { s with noise := before ++ later, seq := .busy (.exAddNoise true a b) 1 (v % 2 == 1) } →
    exec (.exAddNoise true a b) s = .next t ∧ step t = .fault (.noiseHang b))

/-! ### Invariants of every step -/

/-- The machine's invariant is kept by every step, fair or not, reset or not: the extractor's invariants (10 R37), the
payload buffer's size, the receiver's ranges and canonical memory, STATUS against FAULT. The model's own in it: the
canonical forms of the payload buffer and of the memory (assumption logs 2, 5), and that the draw of the free pixels is a
counted one (log 6). -/
def Obligations.EveryStepKeepsTheMachineInvariant : Prop :=
  ∀ (s t : State), MachineInv s → step s = .next t → MachineInv t

/-- The reset states meet the machine's invariant, whatever the free draw. -/
def Obligations.ResetMeetsTheMachineInvariant : Prop :=
  ∀ (c : Config) (d : ResetDraw), c.wf = true → MachineInv (State.resetWith c d)

/-- Under both fairness assumptions every step ends between requests: the sequencer idle, the controller deselected
(40 R120; 20 R64, R66). -/
def Obligations.FairStepsEndQuiescent : Prop :=
  ∀ (s t : State), Fair s → Quiescent s → step s = .next t → Fair t ∧ Quiescent t

/-- The reset states are fair and quiescent: the lines are the spec's (10_state.md R45), the fairness is the model's
choice (assumption log 9). -/
def Obligations.ResetIsFairAndQuiescent : Prop :=
  ∀ (c : Config) (d : ResetDraw), Fair (State.resetWith c d) ∧ Quiescent (State.resetWith c d)

/-- Nothing moves `FR_INIT` back but block reset (10_state.md R22). -/
def Obligations.ReadyLastsUntilReset : Prop :=
  ∀ (s t : State), s.frInit = .ready → NoReset s → step s = .next t → t.frInit = .ready

/-- The log only grows at its end, but for block reset (10_state.md R40; 20_memory.md R65). -/
def Obligations.BusLogOnlyGrows : Prop :=
  ∀ (s t : State), NoReset s → step s = .next t → ∃ es, t.busLog = s.busLog ++ es

/-! ### The host's side (45_host_sequences.md, 60_exceptions.md) -/

/-- The fill repeat: the patterns written hold the window's pixels, and one more for an odd area (R190, R191). -/
def Obligations.FillRepeatCoversTheArea : Prop :=
  ∀ (w h : Nat), 1 ≤ w * h →
    (w * h % 2 = 0 → 2 * (fillRepeat w h + 1) = w * h) ∧
    (w * h % 2 = 1 → 2 * (fillRepeat w h + 1) = w * h + 1 ∧ fillRepeat w h = (w * h - 1) / 2)

/-- The score is clamped for display only: every score past the maximum draws what the maximum draws (R196). -/
def Obligations.DrawScoreClampsForDisplay : Prop :=
  ∀ (l : HostLayout) (value : Nat), l.scoreMax ≤ value → drawScore l value = drawScore l l.scoreMax

/-- The tick flag: set when the period elapses, however often, it lasts through every step until the host clears it or the
block is reset, and the block writes nothing of its own then (60_exceptions.md R229). The glue loop polls it: an iteration
waits for the scheduled tick, clears the flag and does its frame; with the flag set already it does so at once; and with
nothing scheduled it waits (R230). The schedule is the model's choice (assumption log 8). -/
def Obligations.TickFlagLastsUntilTheHostClearsIt : Prop :=
  (∀ (s t : State), s.tickDeadline = true → EnvMove.clearDeadline ∉ s.env → NoReset s → step s = .next t →
    t.tickDeadline = true) ∧
  (∀ (s : State),
    (∀ ms, s.seq = .idle → s.port = [] → s.env = .tickElapsed :: ms →
      step s = .next { s with env := ms, tickDeadline := true }) ∧
    (∀ ms, s.seq = .idle → s.port = [] → s.env = .clearDeadline :: ms →
      step s = .next { s with env := ms, tickDeadline := false }) ∧
    (∀ frame, s.tickDeadline = true → glueIteration frame s = frame { s with tickDeadline := false }) ∧
    (∀ frame ms, s.tickDeadline = false → s.seq = .idle → s.port = [] → s.env = .tickElapsed :: ms →
      glueIteration frame s = frame { s with env := ms, tickDeadline := false }) ∧
    (∀ frame, s.tickDeadline = false → s.seq = .idle → s.fault = .none → s.port = [] → s.env = [] →
      glueIteration frame s = .waiting s))
end

