-- ==== Sys2Proof/Laws/Decode.lean ====
section
/-! SUPPORT. What the decoder can answer, said once: a request decodes exactly when its four checks pass, in R99's
order. -/

namespace Sys2Proof

/-- A request decodes exactly when every check of 30_encoding.md R99 passes, and then to its operands. -/
theorem decode_eq_ok_iff (c : Config) (w : RequestWord) (p : List Byte) (i : Instr) :
    decode c w p = .ok i ↔ ∃ op, opcodeOf (slice w 56 8) = some op ∧ reservedClear (formatOf op) w = true ∧
      payloadError c (formatOf op) w p = none ∧ channelError c op w = none ∧ operandsOf op w p = i := by
  unfold decode
  cases h : opcodeOf (slice w 56 8) with
  | none => simp
  | some op =>
    cases h1 : reservedClear (formatOf op) w with
    | false => simp [h1]
    | true =>
      cases h2 : payloadError c (formatOf op) w p with
      | some e => simp [h1, h2]
      | none =>
        cases h3 : channelError c op w with
        | some e => simp [h1, h2, h3]
        | none => simp [h1, h2, h3]

/-- A request that does not decode is refused by name. -/
theorem decode_error_of_ne_ok (c : Config) (w : RequestWord) (p : List Byte) (h : ∀ i, decode c w p ≠ .ok i) :
    ∃ e, decode c w p = .error e := by
  cases hd : decode c w p with
  | error e => exact ⟨e, rfl⟩
  | ok i => exact absurd hd (h i)

/-- The opcode map, row by row (30_encoding.md R94). -/
theorem opcodeOf_eq_some_iff (n : Nat) (op : Opcode) : opcodeOf n = some op ↔
    (n = 0x01 ∧ op = .sendCmd) ∨ (n = 0x02 ∧ op = .sendData) ∨ (n = 0x03 ∧ op = .setWindow) ∨
    (n = 0x04 ∧ op = .writePixels) ∨ (n = 0x05 ∧ op = .init) ∨ (n = 0x06 ∧ op = .displayOn) ∨
    (n = 0x10 ∧ op = .exAddBit) ∨ (n = 0x11 ∧ op = .exAddNoise) ∨ (n = 0x12 ∧ op = .exNext) ∨
    (n = 0x13 ∧ op = .exAvailable) ∨ (n = 0x14 ∧ op = .exCapacity) := by
  unfold opcodeOf
  split <;> simp_all [eq_comm]

end Sys2Proof
end

