-- ==== Sys2Proof/Laws/Extractor.lean ====
section
/-! SUPPORT. What the extractor's operations can do, said once. -/

namespace Sys2Proof.Machine

/-- `addbit` does one of four things (41_entropy.md R161). -/
theorem Extractor.addBit_cases (k : Nat) (b : Bool) (e : Extractor) :
    (e.avail = k ∧ e.addBit k b = e) ∨
    (e.avail ≠ k ∧ e.nbits + 1 < 3 ∧ e.addBit k b = { e with cand := shiftIn e.cand b, nbits := e.nbits + 1 }) ∨
    (e.avail ≠ k ∧ ¬ e.nbits + 1 < 3 ∧ (shiftIn e.cand b).toNat < 7 ∧ e.addBit k b =
      { e with
        buf := e.buf.set e.tail (shiftIn e.cand b), tail := (e.tail + 1) % k, avail := e.avail + 1
        cand := 0, nbits := 0 }) ∨
    (e.avail ≠ k ∧ ¬ e.nbits + 1 < 3 ∧ ¬ (shiftIn e.cand b).toNat < 7 ∧ e.addBit k b =
      { e with cand := 0, nbits := 0 }) := by
  by_cases h1 : e.avail = k
  · exact .inl ⟨h1, by simp [Extractor.addBit, h1]⟩
  · by_cases h2 : e.nbits + 1 < 3
    · exact .inr (.inl ⟨h1, h2, by simp [Extractor.addBit, h1, h2]⟩)
    · by_cases h3 : (shiftIn e.cand b).toNat < 7
      · refine .inr (.inr (.inl ⟨h1, h2, h3, ?_⟩))
        simp only [Extractor.addBit, h1, h2, h3, if_false, if_true, Extractor.decide, Extractor.accept,
          Extractor.bufWrite]
      · refine .inr (.inr (.inr ⟨h1, h2, h3, ?_⟩))
        simp only [Extractor.addBit, h1, h2, h3, if_false, Extractor.decide]

/-- The candidate with a bit shifted in, as a number (41_entropy.md R161 step 2). -/
theorem shiftIn_toNat (cand : BitVec 3) (b : Bool) : (shiftIn cand b).toNat = (2 * cand.toNat + b.toNat) % 8 := by
  revert cand b
  decide

/-- The queue's length is the count. -/
@[simp] theorem Extractor.queue_length (k : Nat) (e : Extractor) : (e.queue k).length = e.avail := by
  simp [Extractor.queue]

/-- A read after a write of the buffer. -/
theorem Extractor.bufRead_bufWrite (e : Extractor) (i j : Nat) (v : Sample) (h : i < e.buf.length) :
    (e.bufWrite i v).bufRead j = if j = i then v else e.bufRead j := by
  by_cases hj : j = i
  · subst hj; simp [Extractor.bufRead, Extractor.bufWrite, h]
  · simp [Extractor.bufRead, Extractor.bufWrite, hj, Ne.symm hj]

/-! ### The noise queue -/

/-- `NoiseRead` takes the first sample of its channel (10_state.md R41). -/
theorem takeSample_first (ch : Byte) (v : Nat) (before later : List NoiseSample)
    (h : ∀ n ∈ before, n.channel ≠ ch) :
    takeSample ch (before ++ ⟨ch, v⟩ :: later) = (v, before ++ later) := by
  induction before with
  | nil => simp [takeSample]
  | cons n l ih =>
    have h1 : n.channel ≠ ch := h n (by simp)
    have h2 := ih (fun m hm => h m (List.mem_cons_of_mem _ hm))
    simp [takeSample, h1, h2]

end Sys2Proof.Machine
end

