-- ==== Sys2Proof/Laws/Host.lean ====
section
/-! SUPPORT. What the host's sequences do when nothing comes between: one request, and one wait for the tick. -/

namespace Sys2Proof.Machine

@[simp] theorem HostResult.andThen_done (f : State → HostResult) (s : State) :
    (HostResult.done s).andThen f = f s := rfl
@[simp] theorem HostResult.andThen_faulted (f : State → HostResult) (s : State) :
    (HostResult.faulted s).andThen f = .faulted s := rfl
@[simp] theorem HostResult.andThen_abandoned (f : State → HostResult) (s : State) :
    (HostResult.abandoned s).andThen f = .abandoned s := rfl
@[simp] theorem HostResult.andThen_waiting (f : State → HostResult) (s : State) :
    (HostResult.waiting s).andThen f = .waiting s := rfl
@[simp] theorem HostResult.andThen_stuck (f : State → HostResult) (r : Fault) :
    (HostResult.stuck r).andThen f = .stuck r := rfl

/-- An idle block's step. -/
theorem step_of_idle {s : State} {port : List Request} (h : s.seq = .idle) :
    step { s with port := port } = ({ s with port := port } : State).idleStep := by
  simp only [step]
  rw [h]

/-- A request that the host issues to an idle block with an empty port, and that responds without a fault: the sequence
goes on from exec's next state. -/
theorem hostIssue_of_exec (i : Instr) (s t : State) (hs : s.seq = .idle) (hf : s.fault = .none) (hp : s.port = [])
    (hr : s.resetDue = false) (hd : decode s.cfg (encode i).word (encode i).payload = .ok i)
    (he : exec i s = .next t) (ht : t.seq = .idle) (hn : ¬ t.resetsDue < s.resetsDue) (htf : t.fault = .none) :
    hostIssue i s = .done t := by
  have h0 : ({ s with port := [] } : State) = s := by rw [← hp]
  have hro : ({ s with port := [encode i] } : State).portOpen = true := by
    show (s.fault == .none && !s.resetDue) = true
    simp [hf, hr]
  have hst : step { s with port := [encode i] } = .next t := by
    rw [step_of_idle hs, State.idleStep, if_pos hro]
    show State.acceptRequest (encode i) { s with port := [] } = _
    rw [h0, State.acceptRequest, hd]
    exact he
  have hacc : ({ s with port := [encode i] } : State).accepts = true := by
    rw [State.accepts, hro]
    show (s.seq.isIdle && true && true) = true
    rw [hs]; rfl
  have hn' : ¬ t.resetsDue < ({ s with port := [encode i] } : State).resetsDue := hn
  simp only [hostIssue, hp, List.nil_append, State.waitBound, hostWait, hst, List.length_nil, hacc, if_true, hostAnswer,
    ht, Sequencer.isIdle, if_neg hn', htf]
  rfl

/-- The flag is set: the wait is over. -/
theorem awaitDeadline_of_set (s : State) (h : s.tickDeadline = true) : awaitDeadline s = .done s := by
  simp [awaitDeadline, pollDeadline, State.deadlineElapsed, h]

/-- Nothing is scheduled, and the block is idle with nothing to do: the host waits on. -/
theorem awaitDeadline_of_nothing (s : State) (h : s.tickDeadline = false) (hst : step s = .next s) :
    awaitDeadline s = .waiting s := by
  have key : ∀ n, pollDeadline n s = .waiting s := by
    intro n
    induction n with
    | zero => rfl
    | succ n ih => simp [pollDeadline, State.deadlineElapsed, h, hst, ih]
  exact key _

end Sys2Proof.Machine
end

