-- ==== Sys2Proof/Laws/Memory.lean ====
section
/-! SUPPORT. The pixel memory: every operation keeps its canonical form, and a read after a write gives what was written
there and what stood elsewhere. -/

namespace Sys2Proof.Machine

@[simp] theorem Memory.read_nil (b k : Nat) : Memory.read b [] k = Config.freePixel b k := rfl
@[simp] theorem Memory.wf_nil : Memory.wf [] = true := rfl

/-- Every key of the memory is above a bound. -/
theorem Memory.wf_cons_iff (a : Nat) (v : Pixel) (m : Memory) :
    Memory.wf ((a, v) :: m) = true ↔ Memory.wf m = true ∧ ∀ b ∈ m, a < b.1 := by
  induction m generalizing a v with
  | nil => simp [Memory.wf]
  | cons b m ih =>
    obtain ⟨b1, b2⟩ := b
    simp only [Memory.wf, Bool.and_eq_true, decide_eq_true_eq, List.mem_cons, forall_eq_or_imp]
    constructor
    · rintro ⟨h1, h2⟩
      exact ⟨h2, h1, fun x hx => lt_trans h1 (((ih b1 b2).1 h2).2 x hx)⟩
    · rintro ⟨h1, h2, -⟩
      exact ⟨h2, h1⟩

/-- The keys after a write are the old ones and the one written. -/
theorem Memory.mem_write (m : Memory) (k : Nat) (p : Pixel) (x : Nat × Pixel) (h : x ∈ Memory.write m k p) :
    x ∈ m ∨ x = (k, p) := by
  induction m with
  | nil => simpa [Memory.write] using h
  | cons b m ih =>
    obtain ⟨b1, b2⟩ := b
    simp only [Memory.write] at h
    split at h
    · simpa [or_comm, or_assoc, or_left_comm] using h
    · split at h
      · rcases List.mem_cons.1 h with h | h
        · exact .inr h
        · exact .inl (List.mem_cons_of_mem _ h)
      · rcases List.mem_cons.1 h with h | h
        · exact .inl (by simp [h])
        · rcases ih h with h | h
          · exact .inl (List.mem_cons_of_mem _ h)
          · exact .inr h

/-- A write keeps the canonical form. -/
theorem Memory.write_wf (m : Memory) (k : Nat) (p : Pixel) (h : Memory.wf m = true) :
    Memory.wf (Memory.write m k p) = true := by
  induction m with
  | nil => rfl
  | cons b m ih =>
    obtain ⟨a, v⟩ := b
    obtain ⟨hm, hb⟩ := (Memory.wf_cons_iff a v m).1 h
    simp only [Memory.write]
    split
    · rename_i hk
      rw [Memory.wf_cons_iff]
      refine ⟨h, ?_⟩
      intro x hx
      rcases List.mem_cons.1 hx with rfl | hx
      · exact hk
      · exact lt_trans hk (hb x hx)
    · split
      · rename_i hk; subst hk; rw [Memory.wf_cons_iff]; exact ⟨hm, hb⟩
      · rename_i h1 h2
        rw [Memory.wf_cons_iff]
        refine ⟨ih hm, fun x hx => ?_⟩
        rcases Memory.mem_write m k p x hx with hx | rfl
        · exact hb x hx
        · omega

/-- Below all keys there are free values. -/
theorem Memory.read_of_lt (m : Memory) (base k : Nat) (h : ∀ b ∈ m, k < b.1) :
    Memory.read base m k = Config.freePixel base k := by
  induction m with
  | nil => rfl
  | cons b m ih =>
    obtain ⟨a, v⟩ := b
    have ha : k < a := h (a, v) (by simp)
    simp only [Memory.read]
    rw [if_neg (by omega)]
    exact ih (fun x hx => h x (List.mem_cons_of_mem _ hx))

/-- Read after write. -/
theorem Memory.read_write (m : Memory) (base k j : Nat) (p : Pixel) (h : Memory.wf m = true) :
    Memory.read base (Memory.write m k p) j = if j = k then p else Memory.read base m j := by
  induction m with
  | nil => simp [Memory.write, Memory.read, eq_comm]
  | cons b m ih =>
    obtain ⟨a, v⟩ := b
    obtain ⟨hm, hb⟩ := (Memory.wf_cons_iff a v m).1 h
    simp only [Memory.write]
    split
    · rename_i hk
      by_cases hj : j = k
      · simp [Memory.read, hj]
      · simp [Memory.read, hj, Ne.symm hj]
    · split
      · rename_i hk; subst hk
        by_cases hj : j = a
        · simp [Memory.read, hj]
        · simp [Memory.read, hj, Ne.symm hj]
      · rename_i h1 h2
        simp only [Memory.read]
        by_cases hj : a = j
        · subst hj; simp [h2]
        · simp [hj, ih hm]

/-- The memory after reset is canonical, for every draw. -/
theorem Memory.wf_afterReset (d : ResetDraw) : Memory.wf (Receiver.afterReset d).ram = true := rfl

/-- The memory after a panel reset is canonical. -/
theorem Memory.wf_panelReset (r : Receiver) : Memory.wf r.panelReset.ram = true := rfl

/-- A panel reset draws the free pixels anew. -/
theorem Receiver.panelReset_base_lt (r : Receiver) : r.panelReset.base < r.panelReset.draws := Nat.lt_succ_self _

/-- The pointer's movement does not touch the memory. -/
@[simp] theorem Receiver.advance_ram (c : Config) (r : Receiver) : (Receiver.advance c r).ram = r.ram := by
  unfold Receiver.advance Receiver.advanceRowMajor
  repeat' split
  all_goals rfl

/-- Nor the draw of its free values. -/
@[simp] theorem Receiver.advance_base (c : Config) (r : Receiver) : (Receiver.advance c r).base = r.base := by
  unfold Receiver.advance Receiver.advanceRowMajor
  repeat' split
  all_goals rfl

/-- What a pixel write does to the draw of the free values: with an empty window, a new one. -/
theorem Receiver.writePixel_base (c : Config) (p : Pixel) (r : Receiver) :
    (Receiver.writePixel c p r).base = if r.windowEmpty then r.draws else r.base := by
  unfold Receiver.writePixel
  split <;> simp [Receiver.freeRam]

/-- No free value is drawn twice: the pointer's movement only counts on. -/
theorem Receiver.advance_draws_le (c : Config) (r : Receiver) : r.draws ≤ (Receiver.advance c r).draws := by
  unfold Receiver.advance Receiver.advanceRowMajor Receiver.freePointer
  repeat' split
  all_goals simp

/-- A pixel write keeps the draw of the free values below the count. -/
theorem Receiver.writePixel_base_lt (c : Config) (p : Pixel) (r : Receiver) (h : r.base < r.draws) :
    (Receiver.writePixel c p r).base < (Receiver.writePixel c p r).draws := by
  unfold Receiver.writePixel
  split
  · refine lt_of_lt_of_le ?_ (Receiver.advance_draws_le c _)
    simp [Receiver.freeRam]
  · refine lt_of_lt_of_le ?_ (Receiver.advance_draws_le c _)
    simpa using h

/-- What a pixel write does to the memory: one write at the pointer, or, with an empty window, free values everywhere. -/
theorem Receiver.writePixel_ram (c : Config) (p : Pixel) (r : Receiver) :
    (Receiver.writePixel c p r).ram =
      if r.windowEmpty then [] else Memory.write r.ram (cellKey r.cx.toNat r.cy.toNat) p := by
  unfold Receiver.writePixel
  split <;> simp [Receiver.freeRam]

/-- A pixel write keeps the canonical form. -/
theorem Receiver.writePixel_wf (c : Config) (p : Pixel) (r : Receiver) (h : Memory.wf r.ram = true) :
    Memory.wf (Receiver.writePixel c p r).ram = true := by
  rw [Receiver.writePixel_ram]
  split
  · rfl
  · exact Memory.write_wf _ _ _ h

end Sys2Proof.Machine
end

