-- ==== Sys2Proof/Laws/Payload.lean ====
section
/-! SUPPORT. The payload buffer: what a read gives after a load, and that every operation keeps its canonical form and its
size. -/

namespace Sys2Proof.Machine

@[simp] theorem byteAt_nil (i : Nat) : byteAt [] i = 0 := rfl
@[simp] theorem trimBytes_nil : trimBytes [] = [] := rfl
@[simp] theorem frontBytes_length (n : Nat) (l : List Byte) : (frontBytes n l).length = n := by
  induction n generalizing l with
  | zero => rfl
  | succ n ih => cases l <;> simp [frontBytes, ih]

/-- A read is a read of the list, 0 past its end. -/
theorem byteAt_eq_getD (l : List Byte) (i : Nat) : byteAt l i = l.getD i 0 := by
  induction l generalizing i with
  | nil => rfl
  | cons b l ih => cases i with
    | zero => rfl
    | succ i => simpa [byteAt] using ih i

/-- The canonical form changes no byte. -/
@[simp] theorem byteAt_trimBytes (l : List Byte) (i : Nat) : byteAt (trimBytes l) i = byteAt l i := by
  induction l generalizing i with
  | nil => rfl
  | cons b l ih =>
    rw [trimBytes]
    split
    · rename_i h
      cases i with
      | zero => simp [byteAt, h.1]
      | succ i => exact (h.2 ▸ ih i : byteAt [] i = byteAt l i)
    · cases i with
      | zero => rfl
      | succ i => exact ih i

/-- The canonical form is no longer than the list. -/
theorem trimBytes_length_le (l : List Byte) : (trimBytes l).length ≤ l.length := by
  induction l with
  | nil => exact Nat.le_refl _
  | cons b l ih =>
    rw [trimBytes]
    split
    · exact Nat.zero_le _
    · simpa using ih

/-- The canonical form is canonical. -/
@[simp] theorem trimBytes_idem (l : List Byte) : trimBytes (trimBytes l) = trimBytes l := by
  induction l with
  | nil => rfl
  | cons b l ih =>
    by_cases h : b = 0 ∧ trimBytes l = []
    · simp only [trimBytes, if_pos h]
    · simp only [trimBytes, if_neg h, ih]

/-- Byte `i` of the first `n`. -/
theorem byteAt_frontBytes (n : Nat) (l : List Byte) (i : Nat) :
    byteAt (frontBytes n l) i = if i < n then byteAt l i else 0 := by
  induction n generalizing l i with
  | zero => rfl
  | succ n ih =>
    cases l <;> cases i <;> simp [frontBytes, byteAt, ih]

/-- Equal bytes, equal fronts. -/
theorem frontBytes_congr (n : Nat) (l m : List Byte) (h : ∀ i, i < n → byteAt l i = byteAt m i) :
    frontBytes n l = frontBytes n m := by
  induction n generalizing l m with
  | zero => rfl
  | succ n ih =>
    have h0 := h 0 (Nat.succ_pos n)
    cases l <;> cases m <;> simp only [frontBytes, List.cons.injEq] <;>
      exact ⟨by simpa [byteAt] using h0, ih _ _ fun i hi => by simpa [byteAt] using h (i + 1) (by omega)⟩

/-- The front of a list by its own length. -/
theorem frontBytes_append (p l : List Byte) : frontBytes p.length (p ++ l) = p := by
  induction p with
  | nil => cases l <;> rfl
  | cons b p ih => simp [frontBytes, ih]

/-- Read after load (30_encoding.md R97). -/
theorem byteAt_loadBytes (p buf : List Byte) (i : Nat) :
    byteAt (loadBytes p buf) i = if i < p.length then byteAt p i else byteAt buf i := by
  rw [loadBytes, byteAt_trimBytes]
  simp only [byteAt_eq_getD, List.getD_eq_getElem?_getD]
  split
  · rename_i h; rw [List.getElem?_append_left h]
  · rename_i h
    rw [List.getElem?_append_right (by omega), List.getElem?_drop]
    congr 2
    omega

/-- The payload is read back as it was loaded (40_framer.md R125). -/
@[simp] theorem frontBytes_loadBytes (p buf : List Byte) : frontBytes p.length (loadBytes p buf) = p := by
  rw [frontBytes_congr _ _ (p ++ buf.drop p.length) fun i _ => by rw [loadBytes, byteAt_trimBytes], frontBytes_append]

/-- A load keeps the canonical form. -/
@[simp] theorem trimBytes_loadBytes (p buf : List Byte) : trimBytes (loadBytes p buf) = loadBytes p buf :=
  trimBytes_idem _

/-- A load reaches no byte past the payload's and the buffer's own. -/
theorem loadBytes_length_le (p buf : List Byte) : (loadBytes p buf).length ≤ max p.length buf.length := by
  refine (trimBytes_length_le _).trans ?_
  simp only [List.length_append, List.length_drop]
  omega

end Sys2Proof.Machine
end

