-- ==== Sys2Proof/Laws/PerInstr.lean ====
section
/-! SUPPORT. The per-instruction family: the encoding of each request has the opcode of the opcode map in its top byte
(30_encoding.md R90, R94), and that opcode is in the map. -/

namespace Sys2Proof.Laws.EncodingOpcode

/-- The operand fields of a well-formed request stay in `W[55:0]`, so its opcode stands in `W[63:56]`. -/
def Statement (i : Instr) : Prop :=
  ∀ c : Config, i.wf c = true → slice (encode i).word 56 8 = opcodeNumber i ∧ (opcodeOf (opcodeNumber i)).isSome = true

/-- A number `op * 2^56 + fields` with fields below `2^56` has `op` in its top byte. -/
theorem slice_top (op fields : Nat) (ho : op < 256) (hf : fields < 2 ^ 56) :
    slice (BitVec.ofNat 64 (op * 2 ^ 56 + fields)) 56 8 = op := by
  simp only [slice, BitVec.toNat_ofNat]
  omega

theorem sendCmd (byte : Byte) : Statement (.sendCmd byte) := fun _ _ =>
  ⟨slice_top 0x01 _ (by decide) (by simp only [operandFields]; omega), rfl⟩

theorem payload_fields (c : Config) (p : List Byte) (r : BitVec 32) (h : payloadFits c p = true) :
    p.length * 2 ^ 32 + r.toNat < 2 ^ 56 := by
  simp only [payloadFits, Bool.and_eq_true, decide_eq_true_eq] at h
  omega

theorem sendData (payload : List Byte) (rep : BitVec 32) : Statement (.sendData payload rep) := fun c h =>
  ⟨slice_top 0x02 _ (by decide) (payload_fields c payload rep h), rfl⟩

theorem setWindow (x y wd ht : BitVec 12) : Statement (.setWindow x y wd ht) := fun _ _ =>
  ⟨slice_top 0x03 _ (by decide) (by simp only [operandFields]; omega), rfl⟩

theorem writePixels (payload : List Byte) (rep : BitVec 32) : Statement (.writePixels payload rep) := fun c h =>
  ⟨slice_top 0x04 _ (by decide) (payload_fields c payload rep h), rfl⟩

theorem init : Statement .init := fun _ _ => ⟨slice_top 0x05 _ (by decide) (by decide), rfl⟩

theorem displayOn : Statement .displayOn := fun _ _ => ⟨slice_top 0x06 _ (by decide) (by decide), rfl⟩

theorem exAddBit (bit : Bool) : Statement (.exAddBit bit) := fun _ _ =>
  ⟨slice_top 0x10 _ (by decide) (by cases bit <;> decide), rfl⟩

theorem exAddNoise (two : Bool) (chA chB : Byte) : Statement (.exAddNoise two chA chB) := fun _ _ =>
  ⟨slice_top 0x11 _ (by decide) (by cases two <;> simp only [operandFields, Bool.toNat] <;> simp <;> omega), rfl⟩

theorem exNext : Statement .exNext := fun _ _ => ⟨slice_top 0x12 _ (by decide) (by decide), rfl⟩

theorem exAvailable : Statement .exAvailable := fun _ _ => ⟨slice_top 0x13 _ (by decide) (by decide), rfl⟩

theorem exCapacity : Statement .exCapacity := fun _ _ => ⟨slice_top 0x14 _ (by decide) (by decide), rfl⟩

end Sys2Proof.Laws.EncodingOpcode
end

