-- ==== Sys2Proof/Laws/State.lean ====
section
/-! SUPPORT. One lemma per field per update of the state, so that no later proof unfolds a record update. -/

namespace Sys2Proof.Machine

/-! ### advance -/

@[simp] theorem State.advance_cfg (s : State) : (s.advance).cfg = s.cfg := rfl
@[simp] theorem State.advance_fault (s : State) : (s.advance).fault = s.fault := rfl
@[simp] theorem State.advance_frInit (s : State) : (s.advance).frInit = s.frInit := rfl
@[simp] theorem State.advance_lineCmd (s : State) : (s.advance).lineCmd = s.lineCmd := rfl
@[simp] theorem State.advance_lineCs (s : State) : (s.advance).lineCs = s.lineCs := rfl
@[simp] theorem State.advance_lineRst (s : State) : (s.advance).lineRst = s.lineRst := rfl
@[simp] theorem State.advance_seq (s : State) : (s.advance).seq = s.seq.succ := rfl
@[simp] theorem State.advance_resp (s : State) : (s.advance).resp = s.resp := rfl
@[simp] theorem State.advance_plBuf (s : State) : (s.advance).plBuf = s.plBuf := rfl
@[simp] theorem State.advance_plLen (s : State) : (s.advance).plLen = s.plLen := rfl
@[simp] theorem State.advance_ex (s : State) : (s.advance).ex = s.ex := rfl
@[simp] theorem State.advance_chBusy (s : State) : (s.advance).chBusy = s.chBusy := rfl
@[simp] theorem State.advance_busLog (s : State) : (s.advance).busLog = s.busLog := rfl
@[simp] theorem State.advance_noise (s : State) : (s.advance).noise = s.noise := rfl
@[simp] theorem State.advance_tickDeadline (s : State) : (s.advance).tickDeadline = s.tickDeadline := rfl
@[simp] theorem State.advance_rx (s : State) : (s.advance).rx = s.rx := rfl
@[simp] theorem State.advance_port (s : State) : (s.advance).port = s.port := rfl
@[simp] theorem State.advance_env (s : State) : (s.advance).env = s.env := rfl
@[simp] theorem State.advance_chanFair (s : State) : (s.advance).chanFair = s.chanFair := rfl
@[simp] theorem State.advance_noiseFair (s : State) : (s.advance).noiseFair = s.noiseFair := rfl
@[simp] theorem State.advance_noiseDraws (s : State) : (s.advance).noiseDraws = s.noiseDraws := rfl

/-! ### respond -/

@[simp] theorem State.respond_cfg (v : Bool) (b : Byte) (s : State) : (s.respond v b).cfg = s.cfg := rfl
@[simp] theorem State.respond_fault (v : Bool) (b : Byte) (s : State) : (s.respond v b).fault = s.fault := rfl
@[simp] theorem State.respond_frInit (v : Bool) (b : Byte) (s : State) : (s.respond v b).frInit = s.frInit := rfl
@[simp] theorem State.respond_lineCmd (v : Bool) (b : Byte) (s : State) : (s.respond v b).lineCmd = s.lineCmd := rfl
@[simp] theorem State.respond_lineCs (v : Bool) (b : Byte) (s : State) : (s.respond v b).lineCs = s.lineCs := rfl
@[simp] theorem State.respond_lineRst (v : Bool) (b : Byte) (s : State) : (s.respond v b).lineRst = s.lineRst := rfl
@[simp] theorem State.respond_seq (v : Bool) (b : Byte) (s : State) : (s.respond v b).seq = .idle := rfl
@[simp] theorem State.respond_resp (v : Bool) (b : Byte) (s : State) : (s.respond v b).resp = okResponse v b := rfl
@[simp] theorem State.respond_plBuf (v : Bool) (b : Byte) (s : State) : (s.respond v b).plBuf = s.plBuf := rfl
@[simp] theorem State.respond_plLen (v : Bool) (b : Byte) (s : State) : (s.respond v b).plLen = s.plLen := rfl
@[simp] theorem State.respond_ex (v : Bool) (b : Byte) (s : State) : (s.respond v b).ex = s.ex := rfl
@[simp] theorem State.respond_chBusy (v : Bool) (b : Byte) (s : State) : (s.respond v b).chBusy = s.chBusy := rfl
@[simp] theorem State.respond_busLog (v : Bool) (b : Byte) (s : State) : (s.respond v b).busLog = s.busLog := rfl
@[simp] theorem State.respond_noise (v : Bool) (b : Byte) (s : State) : (s.respond v b).noise = s.noise := rfl
@[simp] theorem State.respond_tickDeadline (v : Bool) (b : Byte) (s : State) : (s.respond v b).tickDeadline = s.tickDeadline := rfl
@[simp] theorem State.respond_rx (v : Bool) (b : Byte) (s : State) : (s.respond v b).rx = s.rx := rfl
@[simp] theorem State.respond_port (v : Bool) (b : Byte) (s : State) : (s.respond v b).port = s.port := rfl
@[simp] theorem State.respond_env (v : Bool) (b : Byte) (s : State) : (s.respond v b).env = s.env := rfl
@[simp] theorem State.respond_chanFair (v : Bool) (b : Byte) (s : State) : (s.respond v b).chanFair = s.chanFair := rfl
@[simp] theorem State.respond_noiseFair (v : Bool) (b : Byte) (s : State) : (s.respond v b).noiseFair = s.noiseFair := rfl
@[simp] theorem State.respond_noiseDraws (v : Bool) (b : Byte) (s : State) : (s.respond v b).noiseDraws = s.noiseDraws := rfl

/-! ### raise -/

@[simp] theorem State.raise_cfg (f : FaultCode) (s : State) : (s.raise f).cfg = s.cfg := rfl
@[simp] theorem State.raise_fault (f : FaultCode) (s : State) : (s.raise f).fault = f := rfl
@[simp] theorem State.raise_frInit (f : FaultCode) (s : State) : (s.raise f).frInit = s.frInit := rfl
@[simp] theorem State.raise_lineCmd (f : FaultCode) (s : State) : (s.raise f).lineCmd = s.lineCmd := rfl
@[simp] theorem State.raise_lineCs (f : FaultCode) (s : State) : (s.raise f).lineCs = s.lineCs := rfl
@[simp] theorem State.raise_lineRst (f : FaultCode) (s : State) : (s.raise f).lineRst = s.lineRst := rfl
@[simp] theorem State.raise_seq (f : FaultCode) (s : State) : (s.raise f).seq = .idle := rfl
@[simp] theorem State.raise_resp (f : FaultCode) (s : State) : (s.raise f).resp = faultResponse f := rfl
@[simp] theorem State.raise_plBuf (f : FaultCode) (s : State) : (s.raise f).plBuf = s.plBuf := rfl
@[simp] theorem State.raise_plLen (f : FaultCode) (s : State) : (s.raise f).plLen = s.plLen := rfl
@[simp] theorem State.raise_ex (f : FaultCode) (s : State) : (s.raise f).ex = s.ex := rfl
@[simp] theorem State.raise_chBusy (f : FaultCode) (s : State) : (s.raise f).chBusy = s.chBusy := rfl
@[simp] theorem State.raise_busLog (f : FaultCode) (s : State) : (s.raise f).busLog = s.busLog := rfl
@[simp] theorem State.raise_noise (f : FaultCode) (s : State) : (s.raise f).noise = s.noise := rfl
@[simp] theorem State.raise_tickDeadline (f : FaultCode) (s : State) : (s.raise f).tickDeadline = s.tickDeadline := rfl
@[simp] theorem State.raise_rx (f : FaultCode) (s : State) : (s.raise f).rx = s.rx := rfl
@[simp] theorem State.raise_port (f : FaultCode) (s : State) : (s.raise f).port = s.port := rfl
@[simp] theorem State.raise_env (f : FaultCode) (s : State) : (s.raise f).env = s.env := rfl
@[simp] theorem State.raise_chanFair (f : FaultCode) (s : State) : (s.raise f).chanFair = s.chanFair := rfl
@[simp] theorem State.raise_noiseFair (f : FaultCode) (s : State) : (s.raise f).noiseFair = s.noiseFair := rfl
@[simp] theorem State.raise_noiseDraws (f : FaultCode) (s : State) : (s.raise f).noiseDraws = s.noiseDraws := rfl

/-! ### loadPayload -/

@[simp] theorem State.loadPayload_cfg (p : List Byte) (s : State) : (s.loadPayload p).cfg = s.cfg := rfl
@[simp] theorem State.loadPayload_fault (p : List Byte) (s : State) : (s.loadPayload p).fault = s.fault := rfl
@[simp] theorem State.loadPayload_frInit (p : List Byte) (s : State) : (s.loadPayload p).frInit = s.frInit := rfl
@[simp] theorem State.loadPayload_lineCmd (p : List Byte) (s : State) : (s.loadPayload p).lineCmd = s.lineCmd := rfl
@[simp] theorem State.loadPayload_lineCs (p : List Byte) (s : State) : (s.loadPayload p).lineCs = s.lineCs := rfl
@[simp] theorem State.loadPayload_lineRst (p : List Byte) (s : State) : (s.loadPayload p).lineRst = s.lineRst := rfl
@[simp] theorem State.loadPayload_seq (p : List Byte) (s : State) : (s.loadPayload p).seq = s.seq := rfl
@[simp] theorem State.loadPayload_resp (p : List Byte) (s : State) : (s.loadPayload p).resp = s.resp := rfl
@[simp] theorem State.loadPayload_plBuf (p : List Byte) (s : State) : (s.loadPayload p).plBuf = loadBytes p s.plBuf := rfl
@[simp] theorem State.loadPayload_plLen (p : List Byte) (s : State) : (s.loadPayload p).plLen = p.length := rfl
@[simp] theorem State.loadPayload_ex (p : List Byte) (s : State) : (s.loadPayload p).ex = s.ex := rfl
@[simp] theorem State.loadPayload_chBusy (p : List Byte) (s : State) : (s.loadPayload p).chBusy = s.chBusy := rfl
@[simp] theorem State.loadPayload_busLog (p : List Byte) (s : State) : (s.loadPayload p).busLog = s.busLog := rfl
@[simp] theorem State.loadPayload_noise (p : List Byte) (s : State) : (s.loadPayload p).noise = s.noise := rfl
@[simp] theorem State.loadPayload_tickDeadline (p : List Byte) (s : State) : (s.loadPayload p).tickDeadline = s.tickDeadline := rfl
@[simp] theorem State.loadPayload_rx (p : List Byte) (s : State) : (s.loadPayload p).rx = s.rx := rfl
@[simp] theorem State.loadPayload_port (p : List Byte) (s : State) : (s.loadPayload p).port = s.port := rfl
@[simp] theorem State.loadPayload_env (p : List Byte) (s : State) : (s.loadPayload p).env = s.env := rfl
@[simp] theorem State.loadPayload_chanFair (p : List Byte) (s : State) : (s.loadPayload p).chanFair = s.chanFair := rfl
@[simp] theorem State.loadPayload_noiseFair (p : List Byte) (s : State) : (s.loadPayload p).noiseFair = s.noiseFair := rfl
@[simp] theorem State.loadPayload_noiseDraws (p : List Byte) (s : State) : (s.loadPayload p).noiseDraws = s.noiseDraws := rfl

/-! ### offerSample -/

@[simp] theorem State.offerSample_cfg (ch : Byte) (v : Nat) (s : State) : (s.offerSample ch v).cfg = s.cfg := rfl
@[simp] theorem State.offerSample_fault (ch : Byte) (v : Nat) (s : State) : (s.offerSample ch v).fault = s.fault := rfl
@[simp] theorem State.offerSample_frInit (ch : Byte) (v : Nat) (s : State) : (s.offerSample ch v).frInit = s.frInit := rfl
@[simp] theorem State.offerSample_lineCmd (ch : Byte) (v : Nat) (s : State) : (s.offerSample ch v).lineCmd = s.lineCmd := rfl
@[simp] theorem State.offerSample_lineCs (ch : Byte) (v : Nat) (s : State) : (s.offerSample ch v).lineCs = s.lineCs := rfl
@[simp] theorem State.offerSample_lineRst (ch : Byte) (v : Nat) (s : State) : (s.offerSample ch v).lineRst = s.lineRst := rfl
@[simp] theorem State.offerSample_seq (ch : Byte) (v : Nat) (s : State) : (s.offerSample ch v).seq = s.seq := rfl
@[simp] theorem State.offerSample_resp (ch : Byte) (v : Nat) (s : State) : (s.offerSample ch v).resp = s.resp := rfl
@[simp] theorem State.offerSample_plBuf (ch : Byte) (v : Nat) (s : State) : (s.offerSample ch v).plBuf = s.plBuf := rfl
@[simp] theorem State.offerSample_plLen (ch : Byte) (v : Nat) (s : State) : (s.offerSample ch v).plLen = s.plLen := rfl
@[simp] theorem State.offerSample_ex (ch : Byte) (v : Nat) (s : State) : (s.offerSample ch v).ex = s.ex := rfl
@[simp] theorem State.offerSample_chBusy (ch : Byte) (v : Nat) (s : State) : (s.offerSample ch v).chBusy = s.chBusy := rfl
@[simp] theorem State.offerSample_busLog (ch : Byte) (v : Nat) (s : State) : (s.offerSample ch v).busLog = s.busLog := rfl
@[simp] theorem State.offerSample_noise (ch : Byte) (v : Nat) (s : State) : (s.offerSample ch v).noise = s.noise ++ [⟨ch, v % 2 ^ s.cfg.noiseSampleW⟩] := rfl
@[simp] theorem State.offerSample_tickDeadline (ch : Byte) (v : Nat) (s : State) : (s.offerSample ch v).tickDeadline = s.tickDeadline := rfl
@[simp] theorem State.offerSample_rx (ch : Byte) (v : Nat) (s : State) : (s.offerSample ch v).rx = s.rx := rfl
@[simp] theorem State.offerSample_port (ch : Byte) (v : Nat) (s : State) : (s.offerSample ch v).port = s.port := rfl
@[simp] theorem State.offerSample_env (ch : Byte) (v : Nat) (s : State) : (s.offerSample ch v).env = s.env := rfl
@[simp] theorem State.offerSample_chanFair (ch : Byte) (v : Nat) (s : State) : (s.offerSample ch v).chanFair = s.chanFair := rfl
@[simp] theorem State.offerSample_noiseFair (ch : Byte) (v : Nat) (s : State) : (s.offerSample ch v).noiseFair = s.noiseFair := rfl
@[simp] theorem State.offerSample_noiseDraws (ch : Byte) (v : Nat) (s : State) : (s.offerSample ch v).noiseDraws = s.noiseDraws := rfl

/-! ### addBit -/

@[simp] theorem State.addBit_cfg (b : Bool) (s : State) : (s.addBit b).cfg = s.cfg := rfl
@[simp] theorem State.addBit_fault (b : Bool) (s : State) : (s.addBit b).fault = s.fault := rfl
@[simp] theorem State.addBit_frInit (b : Bool) (s : State) : (s.addBit b).frInit = s.frInit := rfl
@[simp] theorem State.addBit_lineCmd (b : Bool) (s : State) : (s.addBit b).lineCmd = s.lineCmd := rfl
@[simp] theorem State.addBit_lineCs (b : Bool) (s : State) : (s.addBit b).lineCs = s.lineCs := rfl
@[simp] theorem State.addBit_lineRst (b : Bool) (s : State) : (s.addBit b).lineRst = s.lineRst := rfl
@[simp] theorem State.addBit_seq (b : Bool) (s : State) : (s.addBit b).seq = .idle := rfl
@[simp] theorem State.addBit_resp (b : Bool) (s : State) : (s.addBit b).resp = okResponse false 0 := rfl
@[simp] theorem State.addBit_plBuf (b : Bool) (s : State) : (s.addBit b).plBuf = s.plBuf := rfl
@[simp] theorem State.addBit_plLen (b : Bool) (s : State) : (s.addBit b).plLen = s.plLen := rfl
@[simp] theorem State.addBit_ex (b : Bool) (s : State) : (s.addBit b).ex = s.ex.addBit s.cfg.k b := rfl
@[simp] theorem State.addBit_chBusy (b : Bool) (s : State) : (s.addBit b).chBusy = s.chBusy := rfl
@[simp] theorem State.addBit_busLog (b : Bool) (s : State) : (s.addBit b).busLog = s.busLog := rfl
@[simp] theorem State.addBit_noise (b : Bool) (s : State) : (s.addBit b).noise = s.noise := rfl
@[simp] theorem State.addBit_tickDeadline (b : Bool) (s : State) : (s.addBit b).tickDeadline = s.tickDeadline := rfl
@[simp] theorem State.addBit_rx (b : Bool) (s : State) : (s.addBit b).rx = s.rx := rfl
@[simp] theorem State.addBit_port (b : Bool) (s : State) : (s.addBit b).port = s.port := rfl
@[simp] theorem State.addBit_env (b : Bool) (s : State) : (s.addBit b).env = s.env := rfl
@[simp] theorem State.addBit_chanFair (b : Bool) (s : State) : (s.addBit b).chanFair = s.chanFair := rfl
@[simp] theorem State.addBit_noiseFair (b : Bool) (s : State) : (s.addBit b).noiseFair = s.noiseFair := rfl
@[simp] theorem State.addBit_noiseDraws (b : Bool) (s : State) : (s.addBit b).noiseDraws = s.noiseDraws := rfl

/-! ### readNoise -/

@[simp] theorem State.readNoise_cfg (ch : Byte) (s : State) : (s.readNoise ch).cfg = s.cfg := rfl
@[simp] theorem State.readNoise_fault (ch : Byte) (s : State) : (s.readNoise ch).fault = s.fault := rfl
@[simp] theorem State.readNoise_frInit (ch : Byte) (s : State) : (s.readNoise ch).frInit = s.frInit := rfl
@[simp] theorem State.readNoise_lineCmd (ch : Byte) (s : State) : (s.readNoise ch).lineCmd = s.lineCmd := rfl
@[simp] theorem State.readNoise_lineCs (ch : Byte) (s : State) : (s.readNoise ch).lineCs = s.lineCs := rfl
@[simp] theorem State.readNoise_lineRst (ch : Byte) (s : State) : (s.readNoise ch).lineRst = s.lineRst := rfl
@[simp] theorem State.readNoise_seq (ch : Byte) (s : State) : (s.readNoise ch).seq = s.seq.xorBit ((takeSample ch s.noise).1 % 2 == 1) := rfl
@[simp] theorem State.readNoise_resp (ch : Byte) (s : State) : (s.readNoise ch).resp = s.resp := rfl
@[simp] theorem State.readNoise_plBuf (ch : Byte) (s : State) : (s.readNoise ch).plBuf = s.plBuf := rfl
@[simp] theorem State.readNoise_plLen (ch : Byte) (s : State) : (s.readNoise ch).plLen = s.plLen := rfl
@[simp] theorem State.readNoise_ex (ch : Byte) (s : State) : (s.readNoise ch).ex = s.ex := rfl
@[simp] theorem State.readNoise_chBusy (ch : Byte) (s : State) : (s.readNoise ch).chBusy = s.chBusy := rfl
@[simp] theorem State.readNoise_busLog (ch : Byte) (s : State) : (s.readNoise ch).busLog = s.busLog := rfl
@[simp] theorem State.readNoise_noise (ch : Byte) (s : State) : (s.readNoise ch).noise = (takeSample ch s.noise).2 := rfl
@[simp] theorem State.readNoise_tickDeadline (ch : Byte) (s : State) : (s.readNoise ch).tickDeadline = s.tickDeadline := rfl
@[simp] theorem State.readNoise_rx (ch : Byte) (s : State) : (s.readNoise ch).rx = s.rx := rfl
@[simp] theorem State.readNoise_port (ch : Byte) (s : State) : (s.readNoise ch).port = s.port := rfl
@[simp] theorem State.readNoise_env (ch : Byte) (s : State) : (s.readNoise ch).env = s.env := rfl
@[simp] theorem State.readNoise_chanFair (ch : Byte) (s : State) : (s.readNoise ch).chanFair = s.chanFair := rfl
@[simp] theorem State.readNoise_noiseFair (ch : Byte) (s : State) : (s.readNoise ch).noiseFair = s.noiseFair := rfl
@[simp] theorem State.readNoise_noiseDraws (ch : Byte) (s : State) : (s.readNoise ch).noiseDraws = s.noiseDraws := rfl

/-! ### emit: the fields no bus event writes, and the log -/

@[simp] theorem State.emit_cfg (e : BusEvent) (s : State) : (s.emit e).cfg = s.cfg := by cases e <;> rfl
@[simp] theorem State.emit_fault (e : BusEvent) (s : State) : (s.emit e).fault = s.fault := by cases e <;> rfl
@[simp] theorem State.emit_frInit (e : BusEvent) (s : State) : (s.emit e).frInit = s.frInit := by cases e <;> rfl
@[simp] theorem State.emit_seq (e : BusEvent) (s : State) : (s.emit e).seq = s.seq := by cases e <;> rfl
@[simp] theorem State.emit_resp (e : BusEvent) (s : State) : (s.emit e).resp = s.resp := by cases e <;> rfl
@[simp] theorem State.emit_plBuf (e : BusEvent) (s : State) : (s.emit e).plBuf = s.plBuf := by cases e <;> rfl
@[simp] theorem State.emit_plLen (e : BusEvent) (s : State) : (s.emit e).plLen = s.plLen := by cases e <;> rfl
@[simp] theorem State.emit_ex (e : BusEvent) (s : State) : (s.emit e).ex = s.ex := by cases e <;> rfl
@[simp] theorem State.emit_noise (e : BusEvent) (s : State) : (s.emit e).noise = s.noise := by cases e <;> rfl
@[simp] theorem State.emit_tickDeadline (e : BusEvent) (s : State) : (s.emit e).tickDeadline = s.tickDeadline := by cases e <;> rfl
@[simp] theorem State.emit_port (e : BusEvent) (s : State) : (s.emit e).port = s.port := by cases e <;> rfl
@[simp] theorem State.emit_env (e : BusEvent) (s : State) : (s.emit e).env = s.env := by cases e <;> rfl
@[simp] theorem State.emit_chanFair (e : BusEvent) (s : State) : (s.emit e).chanFair = s.chanFair := by cases e <;> rfl
@[simp] theorem State.emit_noiseFair (e : BusEvent) (s : State) : (s.emit e).noiseFair = s.noiseFair := by cases e <;> rfl
@[simp] theorem State.emit_noiseDraws (e : BusEvent) (s : State) : (s.emit e).noiseDraws = s.noiseDraws := by cases e <;> rfl

@[simp] theorem State.emit_busLog (e : BusEvent) (s : State) : (s.emit e).busLog = s.busLog ++ [e] := by cases e <;> rfl

@[simp] theorem State.emit_wait_lineCmd (s : State) : (s.emit .wait).lineCmd = s.lineCmd := rfl
@[simp] theorem State.emit_wait_lineCs (s : State) : (s.emit .wait).lineCs = s.lineCs := rfl
@[simp] theorem State.emit_wait_lineRst (s : State) : (s.emit .wait).lineRst = s.lineRst := rfl
@[simp] theorem State.emit_wait_chBusy (s : State) : (s.emit .wait).chBusy = s.chBusy := rfl
@[simp] theorem State.emit_wait_rx (s : State) : (s.emit .wait).rx = s.rx := rfl
@[simp] theorem State.emit_dc_lineCmd (b : Bool) (s : State) : (s.emit (.dc b)).lineCmd = b := rfl
@[simp] theorem State.emit_dc_lineCs (b : Bool) (s : State) : (s.emit (.dc b)).lineCs = s.lineCs := rfl
@[simp] theorem State.emit_dc_lineRst (b : Bool) (s : State) : (s.emit (.dc b)).lineRst = s.lineRst := rfl
@[simp] theorem State.emit_dc_chBusy (b : Bool) (s : State) : (s.emit (.dc b)).chBusy = s.chBusy := rfl
@[simp] theorem State.emit_dc_rx (b : Bool) (s : State) : (s.emit (.dc b)).rx = s.rx := rfl
@[simp] theorem State.emit_cs_lineCmd (b : Bool) (s : State) : (s.emit (.cs b)).lineCmd = s.lineCmd := rfl
@[simp] theorem State.emit_cs_lineCs (b : Bool) (s : State) : (s.emit (.cs b)).lineCs = b := rfl
@[simp] theorem State.emit_cs_lineRst (b : Bool) (s : State) : (s.emit (.cs b)).lineRst = s.lineRst := rfl
@[simp] theorem State.emit_cs_chBusy (b : Bool) (s : State) : (s.emit (.cs b)).chBusy = s.chBusy := rfl
@[simp] theorem State.emit_cs_rx (b : Bool) (s : State) : (s.emit (.cs b)).rx = s.rx := rfl
@[simp] theorem State.emit_tx_lineCmd (v : Byte) (s : State) : (s.emit (.tx v)).lineCmd = s.lineCmd := rfl
@[simp] theorem State.emit_tx_lineCs (v : Byte) (s : State) : (s.emit (.tx v)).lineCs = s.lineCs := rfl
@[simp] theorem State.emit_tx_lineRst (v : Byte) (s : State) : (s.emit (.tx v)).lineRst = s.lineRst := rfl
@[simp] theorem State.emit_tx_chBusy (v : Byte) (s : State) : (s.emit (.tx v)).chBusy = true := rfl
@[simp] theorem State.emit_tx_rx (v : Byte) (s : State) : (s.emit (.tx v)).rx = if s.lineCs then Receiver.receive s.cfg s.lineCmd v s.rx else s.rx := rfl
@[simp] theorem State.emit_rst_lineCmd (b : Bool) (s : State) : (s.emit (.rst b)).lineCmd = s.lineCmd := rfl
@[simp] theorem State.emit_rst_lineCs (b : Bool) (s : State) : (s.emit (.rst b)).lineCs = s.lineCs := rfl
@[simp] theorem State.emit_rst_lineRst (b : Bool) (s : State) : (s.emit (.rst b)).lineRst = b := rfl
@[simp] theorem State.emit_rst_chBusy (b : Bool) (s : State) : (s.emit (.rst b)).chBusy = s.chBusy := rfl
@[simp] theorem State.emit_rst_rx (b : Bool) (s : State) : (s.emit (.rst b)).rx = if b then s.rx.panelReset else s.rx := rfl
@[simp] theorem State.emit_dly_lineCmd (n : Nat) (s : State) : (s.emit (.dly n)).lineCmd = s.lineCmd := rfl
@[simp] theorem State.emit_dly_lineCs (n : Nat) (s : State) : (s.emit (.dly n)).lineCs = s.lineCs := rfl
@[simp] theorem State.emit_dly_lineRst (n : Nat) (s : State) : (s.emit (.dly n)).lineRst = s.lineRst := rfl
@[simp] theorem State.emit_dly_chBusy (n : Nat) (s : State) : (s.emit (.dly n)).chBusy = s.chBusy := rfl
@[simp] theorem State.emit_dly_rx (n : Nat) (s : State) : (s.emit (.dly n)).rx = s.rx := rfl

/-! ### begin: the fields the port's acceptance does not write -/

@[simp] theorem State.begin_cfg (i : Instr) (s : State) : (s.begin i).cfg = s.cfg := by cases i <;> rfl
@[simp] theorem State.begin_fault (i : Instr) (s : State) : (s.begin i).fault = s.fault := by cases i <;> rfl
@[simp] theorem State.begin_frInit (i : Instr) (s : State) : (s.begin i).frInit = s.frInit := by cases i <;> rfl
@[simp] theorem State.begin_lineCmd (i : Instr) (s : State) : (s.begin i).lineCmd = s.lineCmd := by cases i <;> rfl
@[simp] theorem State.begin_lineCs (i : Instr) (s : State) : (s.begin i).lineCs = s.lineCs := by cases i <;> rfl
@[simp] theorem State.begin_lineRst (i : Instr) (s : State) : (s.begin i).lineRst = s.lineRst := by cases i <;> rfl
@[simp] theorem State.begin_seq (i : Instr) (s : State) : (s.begin i).seq = .busy i 0 false := by cases i <;> rfl
@[simp] theorem State.begin_resp (i : Instr) (s : State) : (s.begin i).resp = s.resp := by cases i <;> rfl
@[simp] theorem State.begin_ex (i : Instr) (s : State) : (s.begin i).ex = s.ex := by cases i <;> rfl
@[simp] theorem State.begin_chBusy (i : Instr) (s : State) : (s.begin i).chBusy = s.chBusy := by cases i <;> rfl
@[simp] theorem State.begin_busLog (i : Instr) (s : State) : (s.begin i).busLog = s.busLog := by cases i <;> rfl
@[simp] theorem State.begin_noise (i : Instr) (s : State) : (s.begin i).noise = s.noise := by cases i <;> rfl
@[simp] theorem State.begin_tickDeadline (i : Instr) (s : State) : (s.begin i).tickDeadline = s.tickDeadline := by cases i <;> rfl
@[simp] theorem State.begin_rx (i : Instr) (s : State) : (s.begin i).rx = s.rx := by cases i <;> rfl
@[simp] theorem State.begin_port (i : Instr) (s : State) : (s.begin i).port = s.port := by cases i <;> rfl
@[simp] theorem State.begin_env (i : Instr) (s : State) : (s.begin i).env = s.env := by cases i <;> rfl
@[simp] theorem State.begin_chanFair (i : Instr) (s : State) : (s.begin i).chanFair = s.chanFair := by cases i <;> rfl
@[simp] theorem State.begin_noiseFair (i : Instr) (s : State) : (s.begin i).noiseFair = s.noiseFair := by cases i <;> rfl
@[simp] theorem State.begin_noiseDraws (i : Instr) (s : State) : (s.begin i).noiseDraws = s.noiseDraws := by cases i <;> rfl

/-! ### clearBusy -/

@[simp] theorem State.clearBusy_cfg (s : State) : (s.clearBusy).cfg = s.cfg := rfl
@[simp] theorem State.clearBusy_fault (s : State) : (s.clearBusy).fault = s.fault := rfl
@[simp] theorem State.clearBusy_frInit (s : State) : (s.clearBusy).frInit = s.frInit := rfl
@[simp] theorem State.clearBusy_lineCmd (s : State) : (s.clearBusy).lineCmd = s.lineCmd := rfl
@[simp] theorem State.clearBusy_lineCs (s : State) : (s.clearBusy).lineCs = s.lineCs := rfl
@[simp] theorem State.clearBusy_lineRst (s : State) : (s.clearBusy).lineRst = s.lineRst := rfl
@[simp] theorem State.clearBusy_seq (s : State) : (s.clearBusy).seq = s.seq := rfl
@[simp] theorem State.clearBusy_resp (s : State) : (s.clearBusy).resp = s.resp := rfl
@[simp] theorem State.clearBusy_plBuf (s : State) : (s.clearBusy).plBuf = s.plBuf := rfl
@[simp] theorem State.clearBusy_plLen (s : State) : (s.clearBusy).plLen = s.plLen := rfl
@[simp] theorem State.clearBusy_ex (s : State) : (s.clearBusy).ex = s.ex := rfl
@[simp] theorem State.clearBusy_chBusy (s : State) : (s.clearBusy).chBusy = false := rfl
@[simp] theorem State.clearBusy_busLog (s : State) : (s.clearBusy).busLog = s.busLog := rfl
@[simp] theorem State.clearBusy_noise (s : State) : (s.clearBusy).noise = s.noise := rfl
@[simp] theorem State.clearBusy_tickDeadline (s : State) : (s.clearBusy).tickDeadline = s.tickDeadline := rfl
@[simp] theorem State.clearBusy_rx (s : State) : (s.clearBusy).rx = s.rx := rfl
@[simp] theorem State.clearBusy_port (s : State) : (s.clearBusy).port = s.port := rfl
@[simp] theorem State.clearBusy_env (s : State) : (s.clearBusy).env = s.env := rfl
@[simp] theorem State.clearBusy_chanFair (s : State) : (s.clearBusy).chanFair = s.chanFair := rfl
@[simp] theorem State.clearBusy_noiseFair (s : State) : (s.clearBusy).noiseFair = s.noiseFair := rfl
@[simp] theorem State.clearBusy_noiseDraws (s : State) : (s.clearBusy).noiseDraws = s.noiseDraws := rfl

/-! ### blockReset -/

@[simp] theorem State.blockReset_cfg (d : ResetDraw) (s : State) : (s.blockReset d).cfg = s.cfg := rfl
@[simp] theorem State.blockReset_fault (d : ResetDraw) (s : State) : (s.blockReset d).fault = .none := rfl
@[simp] theorem State.blockReset_frInit (d : ResetDraw) (s : State) : (s.blockReset d).frInit = .uninit := rfl
@[simp] theorem State.blockReset_lineCmd (d : ResetDraw) (s : State) : (s.blockReset d).lineCmd = false := rfl
@[simp] theorem State.blockReset_lineCs (d : ResetDraw) (s : State) : (s.blockReset d).lineCs = false := rfl
@[simp] theorem State.blockReset_lineRst (d : ResetDraw) (s : State) : (s.blockReset d).lineRst = true := rfl
@[simp] theorem State.blockReset_seq (d : ResetDraw) (s : State) : (s.blockReset d).seq = .idle := rfl
@[simp] theorem State.blockReset_resp (d : ResetDraw) (s : State) : (s.blockReset d).resp = 0 := rfl
@[simp] theorem State.blockReset_plBuf (d : ResetDraw) (s : State) : (s.blockReset d).plBuf = trimBytes (d.plBuf.take s.cfg.payloadMax) := rfl
@[simp] theorem State.blockReset_plLen (d : ResetDraw) (s : State) : (s.blockReset d).plLen = 0 := rfl
@[simp] theorem State.blockReset_ex (d : ResetDraw) (s : State) : (s.blockReset d).ex = Extractor.afterReset s.cfg.k d.exBuf := rfl
@[simp] theorem State.blockReset_chBusy (d : ResetDraw) (s : State) : (s.blockReset d).chBusy = d.chBusy := rfl
@[simp] theorem State.blockReset_busLog (d : ResetDraw) (s : State) : (s.blockReset d).busLog = [] := rfl
@[simp] theorem State.blockReset_noise (d : ResetDraw) (s : State) : (s.blockReset d).noise = s.noise := rfl
@[simp] theorem State.blockReset_tickDeadline (d : ResetDraw) (s : State) : (s.blockReset d).tickDeadline = d.tickDeadline := rfl
@[simp] theorem State.blockReset_rx (d : ResetDraw) (s : State) : (s.blockReset d).rx = { Receiver.afterReset d with base := s.rx.draws, draws := s.rx.draws + 1 } := rfl
@[simp] theorem State.blockReset_port (d : ResetDraw) (s : State) : (s.blockReset d).port = s.port := rfl
@[simp] theorem State.blockReset_env (d : ResetDraw) (s : State) : (s.blockReset d).env = s.env := rfl
@[simp] theorem State.blockReset_chanFair (d : ResetDraw) (s : State) : (s.blockReset d).chanFair = s.chanFair := rfl
@[simp] theorem State.blockReset_noiseFair (d : ResetDraw) (s : State) : (s.blockReset d).noiseFair = s.noiseFair := rfl
@[simp] theorem State.blockReset_noiseDraws (d : ResetDraw) (s : State) : (s.blockReset d).noiseDraws = s.noiseDraws := rfl

/-! ### blockView -/

@[simp] theorem State.blockView_cfg (s : State) : (s.blockView).cfg = s.cfg := rfl
@[simp] theorem State.blockView_fault (s : State) : (s.blockView).fault = s.fault := rfl
@[simp] theorem State.blockView_frInit (s : State) : (s.blockView).frInit = s.frInit := rfl
@[simp] theorem State.blockView_lineCmd (s : State) : (s.blockView).lineCmd = s.lineCmd := rfl
@[simp] theorem State.blockView_lineCs (s : State) : (s.blockView).lineCs = s.lineCs := rfl
@[simp] theorem State.blockView_lineRst (s : State) : (s.blockView).lineRst = s.lineRst := rfl
@[simp] theorem State.blockView_seq (s : State) : (s.blockView).seq = s.seq := rfl
@[simp] theorem State.blockView_resp (s : State) : (s.blockView).resp = s.resp := rfl
@[simp] theorem State.blockView_plBuf (s : State) : (s.blockView).plBuf = s.plBuf := rfl
@[simp] theorem State.blockView_plLen (s : State) : (s.blockView).plLen = s.plLen := rfl
@[simp] theorem State.blockView_ex (s : State) : (s.blockView).ex = s.ex := rfl
@[simp] theorem State.blockView_chBusy (s : State) : (s.blockView).chBusy = s.chBusy := rfl
@[simp] theorem State.blockView_busLog (s : State) : (s.blockView).busLog = s.busLog := rfl
@[simp] theorem State.blockView_noise (s : State) : (s.blockView).noise = [] := rfl
@[simp] theorem State.blockView_tickDeadline (s : State) : (s.blockView).tickDeadline = false := rfl
@[simp] theorem State.blockView_rx (s : State) : (s.blockView).rx = s.rx := rfl
@[simp] theorem State.blockView_port (s : State) : (s.blockView).port = [] := rfl
@[simp] theorem State.blockView_env (s : State) : (s.blockView).env = [] := rfl
@[simp] theorem State.blockView_chanFair (s : State) : (s.blockView).chanFair = s.chanFair := rfl
@[simp] theorem State.blockView_noiseFair (s : State) : (s.blockView).noiseFair = s.noiseFair := rfl
@[simp] theorem State.blockView_noiseDraws (s : State) : (s.blockView).noiseDraws = 0 := rfl

/-! ### the sequencer -/

@[simp] theorem Sequencer.isIdle_idle : Sequencer.idle.isIdle = true := rfl
@[simp] theorem Sequencer.isIdle_busy (i : Instr) (n : Nat) (b : Bool) : (Sequencer.busy i n b).isIdle = false := rfl
@[simp] theorem Sequencer.succ_idle : Sequencer.idle.succ = .idle := rfl
@[simp] theorem Sequencer.succ_busy (i : Instr) (n : Nat) (b : Bool) :
    (Sequencer.busy i n b).succ = .busy i (n + 1) b := rfl
@[simp] theorem Sequencer.isIdle_succ (q : Sequencer) : q.succ.isIdle = q.isIdle := by cases q <;> rfl
@[simp] theorem Sequencer.isIdle_xorBit (b : Bool) (q : Sequencer) : (q.xorBit b).isIdle = q.isIdle := by cases q <;> rfl
theorem Sequencer.isIdle_iff (q : Sequencer) : q.isIdle = true ↔ q = .idle := by cases q <;> simp [Sequencer.isIdle]

end Sys2Proof.Machine
end

