-- ==== Sys2Proof/Laws/Run.lean ====
section
/-! SUPPORT. What the sequencer can do, said once: an await, one primitive, and the framer's two procedures. Later proofs
cite these lemmas instead of unfolding `run`. -/

namespace Sys2Proof.Machine

/-! ### Moves of the external agents -/

/-- A move other than block reset leaves the block's side alone, but for the channel's busy bit. -/
theorem State.move_blockView (m : EnvMove) (s : State) (h : ∀ d, m ≠ .reset d) :
    ∃ b, (s.move m).blockView = ({ s with chBusy := b } : State).blockView := by
  cases m with
  | channelDone => exact ⟨false, rfl⟩
  | reset d => exact absurd rfl (h d)
  | _ => exact ⟨s.chBusy, rfl⟩

theorem State.move_isIdle (m : EnvMove) (s : State) (h : ∀ d, m ≠ .reset d) :
    (s.move m).seq = s.seq := by
  cases m with
  | reset d => exact absurd rfl (h d)
  | _ => rfl

theorem State.move_env (m : EnvMove) (s : State) : (s.move m).env = s.env := by
  cases m <;> rfl

theorem State.move_cfg (m : EnvMove) (s : State) : (s.move m).cfg = s.cfg := by
  cases m <;> rfl

/-! ### Await -/

/-- An enabled primitive does not wait. -/
theorem State.awaitFor_enabled (p : Prim) (env : List EnvMove) (s : State) (h : s.enabled p = true) :
    State.awaitFor p env s = .holds s := by
  cases env <;> simp [State.awaitFor, h]

/-- What the state before an await and the state after it have in common: everything but the external agents' own side
and the channel's busy bit. -/
def SameBlock (s t : State) : Prop := ∃ b, t.blockView = ({ s with chBusy := b } : State).blockView

theorem SameBlock.refl (s : State) : SameBlock s s := ⟨s.chBusy, rfl⟩

/-- Equal but for the external agents' side: field by field. -/
theorem blockView_eq_iff (s t : State) : t.blockView = s.blockView ↔
    t.cfg = s.cfg ∧ t.fault = s.fault ∧ t.frInit = s.frInit ∧ t.lineCmd = s.lineCmd ∧ t.lineCs = s.lineCs ∧
    t.lineRst = s.lineRst ∧ t.seq = s.seq ∧ t.resp = s.resp ∧ t.plBuf = s.plBuf ∧ t.plLen = s.plLen ∧ t.ex = s.ex ∧
    t.chBusy = s.chBusy ∧ t.busLog = s.busLog ∧ t.rx = s.rx ∧ t.chanFair = s.chanFair ∧ t.noiseFair = s.noiseFair := by
  simp [State.blockView]

theorem SameBlock.trans {s t u : State} (h : SameBlock s t) (g : SameBlock t u) : SameBlock s u := by
  obtain ⟨a, ha⟩ := h
  obtain ⟨b, hb⟩ := g
  refine ⟨b, ?_⟩
  rw [blockView_eq_iff] at *
  simp_all

theorem SameBlock.move (m : EnvMove) (s : State) (h : ∀ d, m ≠ .reset d) : SameBlock s (s.move m) :=
  State.move_blockView m s h

theorem SameBlock.grant {p : Prim} {s t : State} (h : s.grant p = some t) : SameBlock s t := by
  cases p <;> simp only [State.grant, reduceCtorEq] at h
  · split at h
    · cases h; exact ⟨false, rfl⟩
    · cases h
  · split at h
    · cases h; exact ⟨s.chBusy, rfl⟩
    · cases h

/-- A granted await holds. -/
theorem State.grant_enabled {p : Prim} {s t : State} (h : s.grant p = some t) : t.enabled p = true := by
  cases p <;> simp only [State.grant, reduceCtorEq] at h
  · split at h
    · cases h; rfl
    · cases h
  · split at h
    · cases h; simp [State.enabled, State.noiseReady]
    · cases h

theorem State.grant_env {p : Prim} {s t : State} (h : s.grant p = some t) : t.env = s.env := by
  cases p <;> simp only [State.grant, reduceCtorEq] at h
  · split at h
    · cases h; rfl
    · cases h
  · split at h
    · cases h; rfl
    · cases h

/-- Every way an await can end, for a schedule that is the state's own. -/
theorem State.awaitFor_cases (p : Prim) (env : List EnvMove) (s : State) (he : s.env = env) :
    (∃ t, State.awaitFor p env s = .holds t ∧ t.enabled p = true ∧ SameBlock s t ∧ ∀ m ∈ t.env, m ∈ s.env) ∨
    (∃ t, State.awaitFor p env s = .blocked t ∧ t.enabled p = false ∧ t.grant p = none ∧ t.env = [] ∧ SameBlock s t) ∨
    (∃ t, State.awaitFor p env s = .abandoned t ∧ t.seq = .idle ∧
      (s.seq = .idle ∨ ∃ u d, SameBlock s u ∧ t = u.blockReset d ∧ EnvMove.reset d ∈ s.env)) := by
  induction env generalizing s with
  | nil =>
    by_cases h : s.enabled p = true
    · exact .inl ⟨s, by simp [State.awaitFor, h], h, .refl s, fun _ hm => hm⟩
    · cases g : s.grant p with
      | some t =>
        refine .inl ⟨t, by simp [State.awaitFor, h, g], State.grant_enabled g, .grant g, ?_⟩
        rw [State.grant_env g]; exact fun _ hm => hm
      | none => exact .inr (.inl ⟨s, by simp [State.awaitFor, h, g], by simpa using h, g, he, .refl s⟩)
  | cons m ms ih =>
    by_cases h : s.enabled p = true
    · exact .inl ⟨s, by simp [State.awaitFor, h], h, .refl s, fun _ hm => hm⟩
    · have hs : SameBlock s { s with env := ms } := ⟨s.chBusy, rfl⟩
      by_cases hi : ((({ s with env := ms } : State).move m).seq).isIdle = true
      · refine .inr (.inr ⟨_, by simp [State.awaitFor, h, hi], (Sequencer.isIdle_iff _).1 hi, ?_⟩)
        by_cases hr : ∃ d, m = .reset d
        · obtain ⟨d, rfl⟩ := hr
          exact .inr ⟨{ s with env := ms }, d, hs, rfl, by simp [he]⟩
        · left
          rw [State.move_isIdle m _ (fun d hd => hr ⟨d, hd⟩)] at hi
          exact (Sequencer.isIdle_iff _).1 hi
      · have hr : ∀ d, m ≠ .reset d := by
          rintro d rfl
          exact hi rfl
        have hm := hs.trans (.move m _ hr)
        have hq := State.move_isIdle m { s with env := ms } hr
        have key := ih (({ s with env := ms } : State).move m) (State.move_env _ _)
        have step : State.awaitFor p (m :: ms) s = State.awaitFor p ms (({ s with env := ms } : State).move m) := by
          simp [State.awaitFor, h, hi]
        rw [step]
        have henv : ∀ x ∈ (({ s with env := ms } : State).move m).env, x ∈ s.env := by
          rw [State.move_env]; intro x hx; rw [he]; exact List.mem_cons_of_mem _ hx
        rcases key with ⟨t, h1, h2, h3, h4⟩ | ⟨t, h1, h2, h3, h4, h5⟩ | ⟨t, h1, h2, h3⟩
        · exact .inl ⟨t, h1, h2, hm.trans h3, fun x hx => henv x (h4 x hx)⟩
        · exact .inr (.inl ⟨t, h1, h2, h3, h4, hm.trans h5⟩)
        · refine .inr (.inr ⟨t, h1, h2, ?_⟩)
          rcases h3 with h3 | ⟨u, d, hu, ht, hd⟩
          · rw [hq] at h3; exact .inl h3
          · exact .inr ⟨u, d, hm.trans hu, ht, henv _ hd⟩

/-! ### One primitive of a run -/

theorem State.run_nil (s : State) : s.run [] = s := rfl

/-- An enabled primitive after which the request is still in progress. -/
theorem State.run_cons_more (p : Prim) (ps : List Prim) (s : State) (he : s.enabled p = true)
    (hb : (s.perform p).seq.isIdle = false) : s.run (p :: ps) = (s.perform p).run ps := by
  rw [State.run, State.awaitFor_enabled p _ s he]
  simp [hb]

/-- An enabled primitive that completes the request. -/
theorem State.run_cons_done (p : Prim) (ps : List Prim) (s : State) (he : s.enabled p = true)
    (hb : (s.perform p).seq.isIdle = true) : s.run (p :: ps) = s.perform p := by
  rw [State.run, State.awaitFor_enabled p _ s he]
  simp [hb]

/-- A bus event in the middle of a request. -/
theorem State.run_emit (e : BusEvent) (ps : List Prim) (s : State) (hb : s.seq.isIdle = false) :
    s.run (.emit e :: ps) = ((s.emit e).advance).run ps :=
  State.run_cons_more _ _ _ rfl (by simpa [State.perform] using hb)

/-- `respond` ends the run. -/
theorem State.run_respond (v : Bool) (b : Byte) (ps : List Prim) (s : State) :
    s.run (.respond v b :: ps) = s.respond v b :=
  State.run_cons_done _ _ _ rfl rfl

/-! ### Runs that reset does not cut short, compared with the run in which nothing is scheduled -/

/-- `t` is `u` but for what the scheduled moves of other agents did; with nothing scheduled it is `u`. -/
def Like (t u : State) : Prop :=
  t.blockView = u.blockView ∧ (∀ d, EnvMove.reset d ∉ t.env) ∧ (u.env = [] → t = u)

theorem Like.refl {s : State} (h : NoReset s) : Like s s := ⟨rfl, h, fun _ => rfl⟩

/-- An update of the block's side that does not read the external side keeps `Like`. -/
theorem Like.emit {t u : State} (h : Like t u) (e : BusEvent) : Like (t.emit e) (u.emit e) := by
  obtain ⟨h1, h2, h3⟩ := h
  refine ⟨?_, by simpa using h2, fun he => by rw [h3 (by simpa using he)]⟩
  rw [blockView_eq_iff] at *
  obtain ⟨a1, a2, a3, a4, a5, a6, a7, a8, a9, a10, a11, a12, a13, a14, a15, a16⟩ := h1
  cases e <;> simp_all

theorem Like.advance {t u : State} (h : Like t u) : Like t.advance u.advance := by
  obtain ⟨h1, h2, h3⟩ := h
  refine ⟨?_, by simpa using h2, fun he => by rw [h3 (by simpa using he)]⟩
  rw [blockView_eq_iff] at *
  simp_all

theorem Like.respond {t u : State} (h : Like t u) (v : Bool) (b : Byte) : Like (t.respond v b) (u.respond v b) := by
  obtain ⟨h1, h2, h3⟩ := h
  refine ⟨?_, by simpa using h2, fun he => by rw [h3 (by simpa using he)]⟩
  rw [blockView_eq_iff] at *
  simp_all

theorem Like.setReady {t u : State} (h : Like t u) :
    Like { t with frInit := .ready } { u with frInit := .ready } := by
  obtain ⟨h1, h2, h3⟩ := h
  refine ⟨?_, h2, fun he => by rw [h3 he]⟩
  rw [blockView_eq_iff] at *
  simp_all

theorem Like.seq_eq {t u : State} (h : Like t u) : t.seq = u.seq := ((blockView_eq_iff _ _).1 h.1).2.2.2.2.2.2.1

theorem Like.cfg_eq {t u : State} (h : Like t u) : t.cfg = u.cfg := ((blockView_eq_iff _ _).1 h.1).1

theorem Like.chanFair_eq {t u : State} (h : Like t u) : t.chanFair = u.chanFair :=
  ((blockView_eq_iff _ _).1 h.1).2.2.2.2.2.2.2.2.2.2.2.2.2.2.1

/-- `Wait()` with a fair channel and no reset scheduled: the sequencer goes on with the channel not busy. -/
theorem Like.run_wait {t u : State} (h : Like t u) (ps : List Prim) (hf : u.chanFair = true)
    (hb : u.seq.isIdle = false) :
    ∃ t', t.run (.wait :: ps) = t'.run ps ∧ Like t' (u.clearBusy.emit .wait).advance := by
  have ht : t.seq.isIdle = false := by rw [h.seq_eq]; exact hb
  rcases State.awaitFor_cases .wait t.env t rfl with
    ⟨v, h1, h2, h3, h4⟩ | ⟨v, -, -, h3, -, h5⟩ | ⟨v, -, -, h3⟩
  · obtain ⟨b, hv⟩ := h3
    have hbusy : v.chBusy = false := by simpa [State.enabled] using h2
    have hvu : Like v u.clearBusy := by
      refine ⟨?_, fun d hd => h.2.1 d (h4 _ hd), fun he => ?_⟩
      · have hu := h.1
        rw [blockView_eq_iff] at *
        simp_all
      · have e := h.2.2 he
        have e2 : t.env = [] := by rw [e]; exact he
        rw [e2, State.awaitFor] at h1
        by_cases hq : t.enabled .wait = true
        · rw [if_pos hq] at h1
          cases h1
          have : t.chBusy = false := by simpa [State.enabled] using hq
          rw [← e]; cases t; cases this; rfl
        · rw [if_neg hq] at h1
          have hg : t.grant .wait = some t.clearBusy := by
            simp [State.grant, h.chanFair_eq, hf]
          rw [hg] at h1
          cases h1
          rw [e]
    have hvseq : v.seq.isIdle = false := by rw [hvu.seq_eq]; exact hb
    refine ⟨(v.emit .wait).advance, ?_, (hvu.emit _).advance⟩
    rw [State.run, h1]
    simp [State.perform, hvseq]
  · obtain ⟨b, hv⟩ := h5
    rw [blockView_eq_iff] at hv
    have hvf : v.chanFair = true := by
      have := h.chanFair_eq; simp_all
    simp [State.grant, hvf] at h3
  · rcases h3 with h3 | ⟨w, d, -, -, hd⟩
    · rw [h3] at ht; cases ht
    · exact absurd hd (h.2.1 d)

/-- A bus event in a run with the rest of the schedule around it. -/
theorem Like.run_emit {t u : State} (h : Like t u) (e : BusEvent) (ps : List Prim) (hb : u.seq.isIdle = false) :
    t.run (.emit e :: ps) = ((t.emit e).advance).run ps ∧ Like (t.emit e).advance (u.emit e).advance :=
  ⟨State.run_emit e ps t (by rw [h.seq_eq]; exact hb), (h.emit e).advance⟩

/-! ### The framer's procedures -/

/-- The state after `cmd(c)` (40_framer.md R122), from a request in progress. -/
def State.afterCmd (c : Byte) (s : State) : State :=
  { s with
    busLog := s.busLog ++ cmdEvents c
    lineCmd := true
    lineCs := false
    chBusy := false
    rx := Receiver.command s.cfg c s.rx
    seq := s.seq.succ.succ.succ.succ.succ.succ }

/-- The state after one byte of `data` in data mode (40_framer.md R124). -/
def State.afterByte (b : Byte) (s : State) : State :=
  { s with
    busLog := s.busLog ++ byteEvents b
    lineCs := false
    chBusy := false
    rx := Receiver.receive s.cfg s.lineCmd b s.rx
    seq := s.seq.succ.succ.succ.succ }

/-- The state after the bytes of a list, one by one. -/
def State.afterBytes (bs : List Byte) (s : State) : State := bs.foldl (fun s b => s.afterByte b) s

/-- The state after the first two events of `data` (40_framer.md R124). -/
def State.afterDataStart (s : State) : State :=
  { s with
    busLog := s.busLog ++ [.wait, .dc false]
    lineCmd := false
    chBusy := false
    seq := s.seq.succ.succ }

/-- The state after `data(L, r)` (40_framer.md R124). -/
def State.afterData (bytes : List Byte) (r : Nat) (s : State) : State :=
  s.afterDataStart.afterBytes (sentBytes bytes r)

/-- `cmd(c)`, whole. -/
theorem Like.run_command {t u : State} (h : Like t u) (c : Byte) (ps : List Prim) (hf : u.chanFair = true)
    (hb : u.seq.isIdle = false) : ∃ t', t.run (cmd c ++ ps) = t'.run ps ∧ Like t' (u.afterCmd c) := by
  simp only [cmd, List.cons_append, List.nil_append]
  obtain ⟨t1, e1, l1⟩ := h.run_wait (.emit (.dc true) :: .emit (.cs true) :: .emit (.tx c) :: .wait ::
    .emit (.cs false) :: ps) hf hb
  obtain ⟨e2, l2⟩ := l1.run_emit (.dc true) (.emit (.cs true) :: .emit (.tx c) :: .wait :: .emit (.cs false) :: ps)
    (by simpa using hb)
  obtain ⟨e3, l3⟩ := l2.run_emit (.cs true) (.emit (.tx c) :: .wait :: .emit (.cs false) :: ps) (by simpa using hb)
  obtain ⟨e4, l4⟩ := l3.run_emit (.tx c) (.wait :: .emit (.cs false) :: ps) (by simpa using hb)
  obtain ⟨t5, e5, l5⟩ := l4.run_wait (.emit (.cs false) :: ps) (by simpa using hf) (by simpa using hb)
  obtain ⟨e6, l6⟩ := l5.run_emit (.cs false) ps (by simpa using hb)
  refine ⟨_, by rw [e1, e2, e3, e4, e5, e6], ?_⟩
  have hu : u.afterCmd c = (u.clearBusy |>.emit .wait |>.advance |>.emit (.dc true) |>.advance |>.emit (.cs true)
      |>.advance |>.emit (.tx c) |>.advance |>.clearBusy |>.emit .wait |>.advance |>.emit (.cs false) |>.advance) := by
    simp [State.afterCmd, State.clearBusy, State.emit, State.applyEvent, State.advance, cmdEvents, Receiver.receive]
  rw [hu]
  exact l6

/-- One byte of `data`, whole. -/
theorem Like.run_dataByte {t u : State} (h : Like t u) (b : Byte) (ps : List Prim) (hf : u.chanFair = true)
    (hb : u.seq.isIdle = false) : ∃ t', t.run (dataByte b ++ ps) = t'.run ps ∧ Like t' (u.afterByte b) := by
  simp only [dataByte, List.cons_append, List.nil_append]
  obtain ⟨e1, l1⟩ := h.run_emit (.cs true) (.emit (.tx b) :: .wait :: .emit (.cs false) :: ps) hb
  obtain ⟨e2, l2⟩ := l1.run_emit (.tx b) (.wait :: .emit (.cs false) :: ps) (by simpa using hb)
  obtain ⟨t3, e3, l3⟩ := l2.run_wait (.emit (.cs false) :: ps) (by simpa using hf) (by simpa using hb)
  obtain ⟨e4, l4⟩ := l3.run_emit (.cs false) ps (by simpa using hb)
  refine ⟨_, by rw [e1, e2, e3, e4], ?_⟩
  have hu : u.afterByte b = (u.emit (.cs true) |>.advance |>.emit (.tx b) |>.advance |>.clearBusy |>.emit .wait
      |>.advance |>.emit (.cs false) |>.advance) := by
    simp [State.afterByte, State.clearBusy, State.emit, State.applyEvent, State.advance, byteEvents]
  rw [hu]
  exact l4

@[simp] theorem State.afterByte_chanFair (b : Byte) (s : State) : (s.afterByte b).chanFair = s.chanFair := rfl
@[simp] theorem State.afterByte_isIdle (b : Byte) (s : State) : (s.afterByte b).seq.isIdle = s.seq.isIdle := by
  simp [State.afterByte]

/-- A list of bytes, one after another. -/
theorem Like.run_bytes {t u : State} (h : Like t u) (bs : List Byte) (ps : List Prim) (hf : u.chanFair = true)
    (hb : u.seq.isIdle = false) : ∃ t', t.run (bs.flatMap dataByte ++ ps) = t'.run ps ∧ Like t' (u.afterBytes bs) := by
  induction bs generalizing t u with
  | nil => exact ⟨t, rfl, h⟩
  | cons b bs ih =>
    obtain ⟨t1, e1, l1⟩ := h.run_dataByte b (bs.flatMap dataByte ++ ps) hf hb
    obtain ⟨t2, e2, l2⟩ := ih l1 (by simpa using hf) (by simpa using hb)
    exact ⟨t2, by rw [List.flatMap_cons, List.append_assoc, e1, e2], l2⟩

/-- The primitives of `n` repetitions are those of the repeated bytes. -/
theorem repetitions_eq (bytes : List Byte) (n : Nat) :
    repetitions bytes n = (List.replicate n bytes).flatten.flatMap dataByte := by
  induction n with
  | zero => rfl
  | succ n ih => simp [repetitions, ih, List.replicate_succ]

/-- `data(L, r)`, whole. -/
theorem Like.run_data {t u : State} (h : Like t u) (bytes : List Byte) (r : Nat) (ps : List Prim)
    (hf : u.chanFair = true) (hb : u.seq.isIdle = false) :
    ∃ t', t.run (data bytes r ++ ps) = t'.run ps ∧ Like t' (u.afterData bytes r) := by
  simp only [data, repetitions_eq, List.cons_append, List.nil_append]
  obtain ⟨t1, e1, l1⟩ := h.run_wait
    (.emit (.dc false) :: ((List.replicate (r + 1) bytes).flatten.flatMap dataByte ++ ps)) hf hb
  obtain ⟨e2, l2⟩ := l1.run_emit (.dc false) ((List.replicate (r + 1) bytes).flatten.flatMap dataByte ++ ps)
    (by simpa using hb)
  have hu : u.afterDataStart = ((u.clearBusy.emit .wait).advance.emit (.dc false)).advance := by
    simp [State.afterDataStart, State.emit, State.applyEvent, State.advance]
  obtain ⟨t3, e3, l3⟩ := l2.run_bytes (sentBytes bytes r) ps (by simpa using hf) (by simpa using hb)
  refine ⟨t3, by rw [e1, e2]; exact e3, ?_⟩
  rw [State.afterData, hu]
  exact l3

/-! ### The procedures' states, field by field -/

/-- What a list of data bytes leaves: the bytes' events, the select line, and what the controller received. -/
theorem State.afterBytes_eq (bs : List Byte) (s : State) (hm : s.lineCmd = false) (hbz : s.chBusy = false) :
    ∃ q, s.afterBytes bs = { s with
      busLog := s.busLog ++ bs.flatMap byteEvents
      lineCs := if bs = [] then s.lineCs else false
      rx := Receiver.dataAll s.cfg bs s.rx
      seq := q } ∧ q.isIdle = s.seq.isIdle := by
  induction bs generalizing s with
  | nil => exact ⟨s.seq, by simp [State.afterBytes, Receiver.dataAll], rfl⟩
  | cons b bs ih =>
    obtain ⟨q, hq, hi⟩ := ih (s.afterByte b) hm rfl
    refine ⟨q, ?_, by simpa using hi⟩
    have : s.afterBytes (b :: bs) = (s.afterByte b).afterBytes bs := rfl
    rw [this, hq]
    simp [State.afterByte, Receiver.dataAll, Receiver.receive, hm, hbz]

/-- What `data(L, r)` leaves (40_framer.md R124). -/
theorem State.afterData_eq (bytes : List Byte) (r : Nat) (s : State) :
    ∃ q, s.afterData bytes r = { s with
      busLog := s.busLog ++ dataEvents bytes r
      lineCmd := false
      lineCs := if sentBytes bytes r = [] then s.lineCs else false
      chBusy := false
      rx := Receiver.dataAll s.cfg (sentBytes bytes r) s.rx
      seq := q } ∧ q.isIdle = s.seq.isIdle := by
  obtain ⟨q, hq, hi⟩ := State.afterBytes_eq (sentBytes bytes r) s.afterDataStart rfl rfl
  refine ⟨q, ?_, by simpa [State.afterDataStart] using hi⟩
  rw [State.afterData, hq]
  simp [State.afterDataStart, dataEvents]

/-- `data` of no byte sends none, and of some byte sends some. -/
theorem sentBytes_eq_nil (bytes : List Byte) (r : Nat) : sentBytes bytes r = [] ↔ bytes = [] := by
  simp [sentBytes]

end Sys2Proof.Machine
end

