-- ==== Sys2Proof/Tests/Slice0.lean ====
section
/-! SUPPORT. The model's own tests: ill-formed requests, words written out from the spec's encodings, one step of each
request against the vectors of spec/95_test_vectors.md, and for each statement with hypotheses a state that meets them. -/

namespace Sys2Proof.Tests

open Sys2Proof.Machine

/-! ### A small configuration and small states -/

/-- The reference configuration with a number for each open parameter, and room for sixteen payload bytes. -/
def conf : Config := { Config.reference with
  madctlParam := 0xC8, dRstHold := 10, dRstSettle := 20, dSlpout := 30, dDispon := 40, payloadMax := 16
  noiseSampleW := 10, linePolarity := ⟨true, true, true⟩, tickPeriod := 7 }

/-- A draw in which every free value differs from the named one. -/
def draw : ResetDraw where
  chBusy := true
  tickDeadline := true
  exBuf := [7, 6, 5]
  plBuf := [0xAA, 0xBB]
  xs := 1
  xe := 2
  ys := 3
  ye := 4
  cx := 5
  cy := 6

/-- After reset. -/
def fresh : State := State.resetWith conf ResetDraw.named

/-- After reset, but with the framer ready. -/
def ready : State := { fresh with frInit := .ready }

/-- A ready block on a channel that never completes a byte. -/
def stuck : State := { ready with chanFair := false }

/-- SEND_CMD at its completion wait on that channel. -/
def waiting : State := { stuck with chBusy := true, seq := .busy (.sendCmd 0x2A) 5 false }

/-- A faulted block. -/
def faulted : State := fresh.raise .notReady

/-- The extractor of a reset block with five fields chosen. -/
def extractor (buf : List Sample) (head tail avail : Nat) (cand : BitVec 3) (nbits : Nat) : Extractor where
  buf := buf ++ List.replicate (18 - buf.length) 0
  head := head
  tail := tail
  avail := avail
  cand := cand
  nbits := nbits

/-- A reset block with an extractor. -/
def withEx (e : Extractor) : State := { fresh with ex := e }

/-- P3's full buffer, and with it a ready sample on channel 3. -/
def full : State := { withEx (extractor [0, 1, 2, 3, 4, 5, 6, 0, 1, 2, 3, 4, 5, 6, 0, 1, 2, 3] 0 0 18 0 0) with
  noise := [⟨3, 0x2F5⟩] }

/-- Two samples queued, the head at 1. -/
def two : State := withEx (extractor [0, 6, 2] 1 3 2 0 0)

/-- Samples ready on channels 3 and 4, out of order. -/
def noisy : State := { fresh with noise := [⟨4, 0x1A4⟩, ⟨3, 0x2F5⟩, ⟨3, 0x003⟩] }

/-- The state after a request. -/
def after (i : Instr) (s : State) : State :=
  match exec i s with
  | .next t    => t
  | .fault _   => s
  | .refused _ => s

/-- A layout whose glyphs and colors are all empty. -/
def layout : HostLayout where
  fieldOffsetX := 0
  fieldOffsetY := 0
  shapeColor := fun _ => (0, 0, 0)
  digits := fun _ => []
  rightmostX := fun ax _ => ax
  eraseWindow := fun ax ay => ⟨ax - 10, ay, 14, 8⟩
  scoreAnchor := (100, 0)
  levelAnchor := (100, 20)
  levelMax := 99
  scoreLabel := (⟨80, 0, 20, 8⟩, [])
  levelLabel := (⟨80, 20, 20, 8⟩, [])
  primeTarget := 2

/-- P7's state before its last fed bit: one sample queued, two bits held. -/
def priming : State := withEx (extractor [3] 0 1 1 0 2)

/-- EX_ADD_NOISE on channels 3 and 4 at its first await, and at its second, with no sample ready. -/
def awaiting (pos : Nat) : State := { fresh with noiseFair := false, seq := .busy (.exAddNoise true 3 4) pos true }

/-- A 2x1 window after its memory-write command, two bytes received. -/
def painting : Receiver := { fresh.rx with
  cmd := some 0x2C, pix := [0x12, 0x34], xs := 2, xe := 3, ys := 3, ye := 3, cx := 2, cy := 3 }

/-- With nothing scheduled no reset is. -/
theorem noReset_of_nil {s : State} (h : s.env = []) : NoReset s := fun d hd => by simp [h] at hd

/-! ### Ill-formed requests: one per check (30_encoding.md R97, R99) -/

theorem test_wf_refuses_long_sendData : (Instr.sendData (List.replicate 17 0) 0).wf conf = false := by decide
theorem test_wf_refuses_long_writePixels : (Instr.writePixels (List.replicate 17 0) 0).wf conf = false := by decide
theorem test_wf_takes_longest_payload : (Instr.sendData (List.replicate 16 0) 0).wf conf = true := by decide
theorem test_wf_refuses_channel_a : (Instr.exAddNoise false 8 0).wf conf = false := by decide
theorem test_wf_refuses_channel_b : (Instr.exAddNoise true 3 8).wf conf = false := by decide
theorem test_wf_refuses_unused_channel_b : (Instr.exAddNoise false 3 1).wf conf = false := by decide

/-- `PRIME_TARGET` past K = 18 (00_scope.md R10), a glyph longer than a payload (45_host_sequences.md R193), and a digit
position that would be negative (R194). -/
theorem test_wf_refuses_layouts :
    layout.wf conf = true ∧ { layout with primeTarget := 18 }.wf conf = true ∧
    { layout with primeTarget := 19 }.wf conf = false ∧
    { layout with digits := fun _ => List.replicate 17 0 }.wf conf = false ∧
    { layout with scoreLabel := (⟨80, 0, 20, 8⟩, List.replicate 17 0) }.wf conf = false ∧
    { layout with levelLabel := (⟨80, 0, 20, 8⟩, List.replicate 17 0) }.wf conf = false ∧
    { layout with scoreAnchor := (9, 0) }.wf conf = false ∧
    { layout with levelAnchor := (9, 0) }.wf conf = false := by decide
/-- So the host does not begin to prime. -/
theorem test_prime_refuses : prime { layout with primeTarget := 19 } [] fresh = none := by decide

/-! ### Words written out from the encoding tables (30_encoding.md R91, R94, R108; 95_test_vectors.md E1-E16) -/

/-- SEND_CMD: opcode 0x01 in bits 63..56, BYTE in bits 7..0 (E1). -/
theorem test_decode_sendCmd : decode conf (0x01#8 ++ 0#48 ++ 0x2A#8) [] = .ok (.sendCmd 0x2A) := by decide
/-- SEND_DATA: LEN in bits 55..32, REPEAT in bits 31..0. -/
theorem test_decode_sendData :
    decode conf (0x02#8 ++ 2#24 ++ 0x80000001#32) [0xF0, 0x0F] = .ok (.sendData [0xF0, 0x0F] 0x80000001) := by decide
/-- SET_WINDOW: X, Y, WD, HT in bits 47..36, 35..24, 23..12, 11..0 (E2). -/
theorem test_decode_setWindow :
    decode conf (0x03#8 ++ 0#8 ++ 10#12 ++ 20#12 ++ 5#12 ++ 6#12) [] = .ok (.setWindow 10 20 5 6) := by decide
/-- WRITE_PIXELS (E4). -/
theorem test_decode_writePixels :
    decode conf 0x0400000300000001 [0xF0, 0x0F, 0x00] = .ok (.writePixels [0xF0, 0x0F, 0x00] 1) := by decide
theorem test_decode_init : decode conf (0x05#8 ++ 0#56) [] = .ok .init := by decide
theorem test_decode_displayOn : decode conf (0x06#8 ++ 0#56) [] = .ok .displayOn := by decide
theorem test_decode_exAddBit : decode conf (0x10#8 ++ 0#55 ++ 1#1) [] = .ok (.exAddBit true) := by decide
/-- EX_ADD_NOISE: XOR in bit 16, CH_A in bits 15..8, CH_B in bits 7..0 (E5). -/
theorem test_decode_exAddNoise :
    decode conf (0x11#8 ++ 0#39 ++ 1#1 ++ 3#8 ++ 4#8) [] = .ok (.exAddNoise true 3 4) := by decide
theorem test_decode_exNext : decode conf (0x12#8 ++ 0#56) [] = .ok .exNext := by decide
theorem test_decode_exAvailable : decode conf (0x13#8 ++ 0#56) [] = .ok .exAvailable := by decide
theorem test_decode_exCapacity : decode conf (0x14#8 ++ 0#56) [] = .ok .exCapacity := by decide

/-- E6-E8: reserved opcodes. -/
theorem test_decode_refuses_opcodes :
    decode conf 0 [] = .error .reservedOpcode ∧ decode conf 0x0700000000000000 [] = .error .reservedOpcode ∧
    decode conf 0x1500000000000000 [] = .error .reservedOpcode := by decide
/-- E9, E10, E13, E16: reserved bits. -/
theorem test_decode_refuses_bits :
    decode conf 0x0100000000000100 [] = .error .reservedBits ∧
    decode conf 0x0301000000080080 [] = .error .reservedBits ∧
    decode conf 0x1000000000000002 [] = .error .reservedBits ∧
    decode conf 0x0500000000000001 [] = .error .reservedBits := by decide
/-- E11, E12: payloads. -/
theorem test_decode_refuses_payloads :
    decode conf 0x0200000200000000 [1, 2, 3] = .error .payloadLength ∧
    decode conf 0x1200000000000000 [0] = .error .unexpectedPayload ∧
    decode conf 0x0200001100000000 (List.replicate 17 0) = .error .payloadTooLong := by decide
/-- E14, E15: channels. -/
theorem test_decode_refuses_channels :
    decode conf 0x1100000000000001 [] = .error .secondChannelNotZero ∧
    decode conf 0x1100000000000800 [] = .error .channelAInvalid ∧
    decode conf 0x1100000000010308 [] = .error .channelBInvalid := by decide
/-- The most significant byte of the word comes first (20_memory.md R63); seven bytes are no word. -/
theorem test_decodeBytes :
    decodeBytes conf [0x03, 0x00, 0x00, 0xA0, 0x14, 0x00, 0x50, 0x05] = .ok (.setWindow 10 20 5 5) ∧
    decodeBytes conf [0x03, 0x00, 0x00, 0xA0, 0x14, 0x00, 0x50] = .error .shortWord := by decide
/-- The opcode table's numbering: a payload byte stands above the word. -/
theorem test_decodeTableWord :
    decodeTableWord 72 (0xAB * 2 ^ 64 + 0x0200000100000000) = some (.sendData [0xAB] 0) := by decide

/-! ### One request at a time, against 95_test_vectors.md -/

/-- F1. -/
theorem test_sendCmd : (after (.sendCmd 0x2A) ready).busLog =
    [.wait, .dc true, .cs true, .tx 0x2A, .wait, .cs false] := by decide
/-- F15. -/
theorem test_sendCmd_not_ready : (after (.sendCmd 0x2A) fresh).resp = 0x20000000 ∧
    (after (.sendCmd 0x2A) fresh).busLog = [] := by decide
/-- F2. -/
theorem test_sendData : (after (.sendData [0xF0, 0x0F] 1) ready).busLog =
    [.wait, .dc false, .cs true, .tx 0xF0, .wait, .cs false, .cs true, .tx 0x0F, .wait, .cs false,
     .cs true, .tx 0xF0, .wait, .cs false, .cs true, .tx 0x0F, .wait, .cs false] := by decide
/-- F3. -/
theorem test_sendData_empty : (after (.sendData [] 5) ready).busLog = [.wait, .dc false] := by decide
/-- R28, R97: the payload buffer has a value for every byte; a load writes its first bytes and leaves the others. -/
theorem test_payload_buffer :
    byteAt fresh.plBuf 15 = 0 ∧ (State.resetWith conf draw).plBuf = [0xAA, 0xBB] ∧
    (after (.sendData [0x11, 0x00] 0) { ready with plBuf := [1, 2, 3] }).plBuf = [0x11, 0x00, 3] ∧
    (after (.sendData [0x11, 0x00] 0) { ready with plBuf := [1, 2, 3] }).payload = [0x11, 0x00] ∧
    (after (.sendData [0x11, 0x00] 0) ready).payload = [0x11, 0x00] := by decide
/-- F5: the window's registers. -/
theorem test_setWindow :
    let r := (after (.setWindow 127 127 1 1) ready).rx
    (r.xs, r.xe, r.ys, r.ye) = (129, 129, 130, 130) := by decide
/-- F8: a window past the panel. -/
theorem test_setWindow_invalid : (after (.setWindow 0 0 129 1) ready).resp = 0x40000000 ∧
    (after (.setWindow 0 0 129 1) ready).fault = .invalidWindow ∧
    (after (.setWindow 0 0 129 1) ready).busLog = [] := by decide
/-- F11: two pixels, and the pointer back at the window's start. -/
theorem test_writePixels :
    let r := (after (.writePixels [0x12, 0x34, 0x56] 0) (after (.setWindow 0 0 2 1) ready)).rx
    r.ram = [(cellKey 2 3, 0x123), (cellKey 3 3, 0x456)] ∧ (r.cx, r.cy) = (2, 3) := by decide
/-- F19: a payload that is not a multiple of three. -/
theorem test_writePixels_ragged :
    (after (.writePixels [0xAB] 2) (after (.setWindow 0 0 2 1) ready)).rx.ram =
      [(cellKey 2 3, 0xABA), (cellKey 3 3, 0xBAB)] := by decide
/-- F13: the 35 events of program P1. -/
theorem test_init : (after .init fresh).busLog =
    [.rst true, .dly 10, .rst false, .dly 20, .wait, .dc true, .cs true, .tx 0x11, .wait, .cs false, .dly 30,
     .wait, .dc true, .cs true, .tx 0x3A, .wait, .cs false, .wait, .dc false, .cs true, .tx 0x03, .wait, .cs false,
     .wait, .dc true, .cs true, .tx 0x36, .wait, .cs false, .wait, .dc false, .cs true, .tx 0xC8, .wait,
     .cs false] := by decide
/-- F14. -/
theorem test_init_twice : (after .init ready).resp = 0x30000000 ∧ (after .init ready).busLog = [] := by decide
/-- F12. -/
theorem test_displayOn : (after .displayOn ready).busLog =
    [.dly 40, .wait, .dc true, .cs true, .tx 0x29, .wait, .cs false] := by decide
/-- F16. -/
theorem test_displayOn_not_ready : (after .displayOn fresh).fault = .notReady := by decide
/-- P2: the third bit of 1 1 0 accepts 6. -/
theorem test_exAddBit_accepts : (after (.exAddBit false) (withEx (extractor [] 0 0 0 3 2))).ex =
    extractor [6] 0 1 1 0 0 := by decide
/-- X3: the third bit of 1 1 1 is rejected. -/
theorem test_exAddBit_rejects : (after (.exAddBit true) (withEx (extractor [] 0 0 0 3 2))).ex =
    extractor [] 0 0 0 0 0 := by decide
/-- X14: 1 xor 0; the samples of both channels are read, the later one of channel 3 is not. -/
theorem test_exAddNoise_xor : (after (.exAddNoise true 3 4) noisy).ex = extractor [] 0 0 0 1 1 ∧
    (after (.exAddNoise true 3 4) noisy).noise = [⟨3, 0x003⟩] := by decide
/-- X15, with the samples 0x2F5 and 0x003: two successive reads of one channel. -/
theorem test_exAddNoise_twice : (after (.exAddNoise true 3 3) noisy).ex = extractor [] 0 0 0 0 1 := by decide
/-- X11, with the bit of X10 dropped before it. -/
theorem test_exNext : (after .exNext (after (.exAddBit false) full)).resp = 0x00000100 ∧
    (after .exNext full).ex.head = 1 ∧ (after .exNext full).ex.avail = 17 := by decide
/-- X8: the fallback. -/
theorem test_exNext_empty : (after .exNext fresh).resp = 0x00000003 := by decide
/-- X9. -/
theorem test_exAvailable : (after .exAvailable full).resp = 0x00000112 := by decide
/-- X7. -/
theorem test_exCapacity : (after .exCapacity fresh).resp = 0x00000112 := by decide
/-- W10: `DRAW_CELL(2, 4, EMPTY)` with zero field offsets. -/
theorem test_drawCell (l : HostLayout) (h : l.cellSize = 5) (hx : l.fieldOffsetX = 0) (hy : l.fieldOffsetY = 0) :
    drawCell l 2 4 .empty = some [.setWindow 10 20 5 5, .writePixels [0x00, 0x00, 0x00] 12] := by
  rw [drawCell, h, hx, hy]; rfl
/-- The state a host sequence ends in when it is through. -/
def through (r : HostResult) : Option State :=
  match r with
  | .done s => some s
  | _       => none
/-- P7, steps 17 to 19: `available`, the bit that completes the sample 0, `available` again, and no bit more. -/
theorem test_prime : prime layout [.bit false, .bit true] priming = some (.done { priming with
    ex := extractor [3, 0] 0 2 2 0 0, resp := 0x00000102 }) := by decide
/-- One sample short and no feed left: the host waits. -/
theorem test_prime_waits : prime layout [] priming = some (.waiting { priming with resp := 0x00000101 }) := by decide
/-- `draw` on an empty buffer: fed until the sample 6 is there, which is then taken. -/
theorem test_drawSample :
    (through (drawSample [.bit false] (withEx (extractor [] 0 0 0 3 2)))).map (·.resp) = some 0x00000106 := by decide
/-- R235: a block reset comes first, and still each request is issued only after the last one's response. -/
theorem test_hostRun_reset :
    (through (hostRun [.exAddBit true, .exAvailable] { fresh with env := [.reset draw] })).map
      (fun t => (t.port, t.resp, t.ex.nbits, t.env)) = some ([], 0x00000100, 1, []) := by decide
/-- R213, R240: nothing is issued after a fault, nor after a reset that abandons the request. -/
theorem test_hostRun_stops :
    hostRun [.displayOn, .exNext] fresh = .faulted (fresh.raise .notReady) ∧
    (match hostRun [.exAddNoise false 3 0, .exNext] { fresh with env := [.channelDone, .reset draw] } with
      | .abandoned t => t.port.isEmpty
      | _            => false) = true := by decide
/-- R230: the tick is awaited, the flag cleared, and the frame issued, twice over. -/
theorem test_glueLoop :
    (through (glueLoop [hostRun [.exAvailable], hostRun [.exNext]]
      { fresh with env := [.channelDone, .tickElapsed, .tickElapsed] })).map
      (fun t => (t.tickDeadline, t.resp, t.env)) = some (false, 0x00000003, []) := by decide
/-- R105 and R106: a request, a pseudo-request that expands, and a window that its fields cannot hold. -/
theorem test_assemble :
    assemble "add_noise" [.number 5, .number 6] = some [.exAddNoise true 5 6] ∧
    assemble "fill_rect" [.number 10, .number 20, .number 5, .number 5, .bytes [0xF0, 0x0F, 0x00]] =
      some [.setWindow 10 20 5 5, .writePixels [0xF0, 0x0F, 0x00] 12] ∧
    assemble "fill_rect" [.number 10, .number 20, .number 0, .number 5, .bytes [0xF0, 0x0F, 0x00]] =
      some [.setWindow 10 20 0 5] ∧
    assemble "set_window" [.number 0, .number 0, .number 4096, .number 1] = none := by decide
/-- R93: a payload list of `2^24` bytes or more, which no LEN holds, gives no request in any line that takes one. -/
theorem test_assemble_long_payload (p : List Byte) (h : ¬ p.length < 2 ^ 24) :
    assemble "send_data" [.bytes p, .number 0] = none ∧ assemble "write_pixels" [.bytes p, .number 0] = none ∧
    assemble "write_pixels_once" [.bytes p] = none ∧
    assemble "draw_glyph" [.number 0, .number 0, .number 4, .number 8, .bytes p] = none := by
  have hp : asmPayload p = none := if_neg h
  simp [assemble, glyphRequests, writePixelsOnce, asmData, hp]
/-- R105, R106: the lines with a payload. -/
theorem test_assemble_payload :
    assemble "send_data" [.bytes [1, 2], .number 5] = some [.sendData [1, 2] 5] ∧
    assemble "write_pixels" [.bytes [1, 2], .number 0x100000000] = none ∧
    assemble "write_pixels_once" [.bytes [1, 2]] = some [.writePixels [1, 2] 0] ∧
    assemble "draw_glyph" [.number 0, .number 1, .number 4, .number 8, .bytes [1, 2]] =
      some [.setWindow 0 1 4 8, .writePixels [1, 2] 0] := by decide
/-- R245: a window before each write, extractor requests between are harmless. -/
theorem test_windowsBeforeWrites :
    windowsBeforeWrites false [.setWindow 0 0 2 2, .exNext, .writePixels [] 0] = true ∧
    windowsBeforeWrites false [.setWindow 0 0 2 2, .writePixels [] 0, .writePixels [] 0] = false := by decide
/-- R71, R77, R80: every cell has a pixel, a free value after a panel reset and after a write into an empty window, of a new
draw each; the pixels of the empty window are in no cell. -/
theorem test_free_pixels :
    (after .init fresh).rx.pixelAt 2 3 = Config.freePixel 1 (cellKey 2 3) ∧ (after .init fresh).rx.base = 1 ∧
    (Receiver.data conf 0x56 { painting with xe := 1 }).pixelAt 2 3 = Config.freePixel 2 (cellKey 2 3) ∧
    (Receiver.data conf 0x56 { painting with xe := 1 }).base = 2 := ⟨rfl, rfl, rfl, rfl⟩
/-- The memory after reset is canonical. -/
theorem test_reset_memory : Memory.wf State.reset.rx.ram = true := by decide
/-- The request that the opcode table numbers is the one the very next step runs. -/
theorem test_withFetchWord :
    step (State.reset.withFetchWord 64 0x1300000000000000) = .next { State.reset with resp := 0x00000100 } := by
  rfl

/-! ### The hypotheses of the statements are met -/

/-- Every kind of operand at its bound. -/
theorem witness_DecodeEncodeRoundTrip :
    (Instr.sendCmd 0xFF).wf conf = true ∧ (Instr.sendData [] 0xFFFFFFFF).wf conf = true ∧
    (Instr.writePixels (List.replicate 16 0xFF) 0).wf conf = true ∧
    (Instr.setWindow 0xFFF 0 0xFFF 0).wf conf = true ∧ (Instr.exAddNoise true 0 7).wf conf = true ∧
    (Instr.exAddNoise false 7 0).wf conf = true := by decide

theorem witness_EncodeDecodeRoundTrip : decode conf 0x030000A014005005 [] = .ok (.setWindow 10 20 5 5) := by decide

theorem witness_DecodedRequestsAreWellFormed :
    decode conf 0x1100000000010307 [] = .ok (.exAddNoise true 3 7) ∧
    decode conf 0x0200000100000000 [1] = .ok (.sendData [1] 0) := by decide

theorem witness_ReservedOpcodesAreIllegal :
    slice 0x0000000000000000 56 8 = 0x00 ∧ slice 0x0700000000000000 56 8 = 0x07 ∧
    slice 0x1500000000000000 56 8 = 0x15 ∧ slice 0xFF00000000000000 56 8 = 0xFF ∧
    ∀ n ∈ [0x00, 0x07, 0x15, 0xFF],
      n ∉ [0x01, 0x02, 0x03, 0x04, 0x05, 0x06, 0x10, 0x11, 0x12, 0x13, 0x14] := by decide

/-- Each format's lowest and highest reserved bit, set. -/
theorem witness_ReservedBitsAreIllegal :
    ∀ x ∈ [(0x0100000000000100#64, 8), (0x0180000000000000#64, 55), (0x0301000000000000#64, 48),
      (0x0380000000000000#64, 55), (0x0500000000000001#64, 0), (0x1480000000000000#64, 55),
      (0x1000000000000002#64, 1), (0x1080000000000000#64, 55), (0x1100000000020000#64, 17),
      (0x1180000000010000#64, 55), (0x1100000000000001#64, 0), (0x1100000000000080#64, 7)],
      reservedBit (slice x.1 56 8) (slice x.1 16 1) x.2 = true ∧ x.1.getLsbD x.2 = true := by
  decide +kernel

/-- A payload one byte short, one past `PAYLOAD_MAX`, one where none belongs, and each wrong channel. -/
theorem witness_BadPayloadsAndChannelsAreIllegal :
    ((slice 0x0200000200000000 56 8 = 0x02 ∧ ([0] : List Byte).length ≠ slice 0x0200000200000000 32 24) ∧
     (slice 0x0400001100000000 56 8 = 0x04 ∧ conf.payloadMax < slice 0x0400001100000000 32 24)) ∧
    (slice 0x1200000000000000 56 8 ≠ 0x02 ∧ slice 0x1200000000000000 56 8 ≠ 0x04 ∧ ([0] : List Byte) ≠ []) ∧
    ((slice 0x1100000000000001 56 8 = 0x11 ∧ slice 0x1100000000000001 16 1 = 0 ∧ slice 0x1100000000000001 0 8 ≠ 0) ∧
     BitVec.ofNat 8 (slice 0x1100000000000800 8 8) ∉ conf.noiseChannels ∧
     (slice 0x1100000000010008 16 1 = 1 ∧ BitVec.ofNat 8 (slice 0x1100000000010008 0 8) ∉ conf.noiseChannels)) := by
  decide +kernel

/-- An idle block with two requests on its port. -/
def queued : State := { fresh with port := [⟨0x1000000000000001, []⟩, ⟨0x0500000000000000, []⟩] }

theorem witness_StepRunsTheDecodedRequest :
    queued.seq = .idle ∧ queued.fault = .none ∧ queued.resetDue = false ∧
    queued.port = ⟨0x1000000000000001, []⟩ :: [⟨0x0500000000000000, []⟩] ∧
    decode queued.cfg 0x1000000000000001 [] = .ok (.exAddBit true) := by decide

/-- An idle block with an illegal request on its port. -/
def badQueued : State := { fresh with port := [⟨0x0700000000000000, []⟩] }

theorem witness_IllegalRequestOnlyFaults :
    badQueued.seq = .idle ∧ badQueued.fault = .none ∧ badQueued.resetDue = false ∧ badQueued.port = [⟨0x0700000000000000, []⟩] ∧
    decode badQueued.cfg 0x0700000000000000 [] = .error .reservedOpcode := by decide

theorem witness_FaultedBlockHasNoStepOfItsOwn :
    (faulted.seq = .idle ∧ faulted.fault ≠ .none ∧ faulted.env = []) ∧
    (({ faulted with env := [.tickElapsed] } : State).fault ≠ .none) := by decide

theorem witness_FaultLastsUntilReset :
    ∃ t, ({ faulted with env := [.issue ⟨0, []⟩] } : State).seq = .idle ∧
      ({ faulted with env := [.issue ⟨0, []⟩] } : State).fault ≠ .none ∧
      NoReset { faulted with env := [.issue ⟨0, []⟩] } ∧
      step { faulted with env := [.issue ⟨0, []⟩] } = .next t :=
  ⟨_, rfl, by decide, fun d hd => by simp at hd, rfl⟩

/-- An idle block with requests on its port, a faulted one, one in the middle of a wait, and one at the first and one at
the second await of EX_ADD_NOISE. -/
theorem witness_BlockResetRestoresTheResetState :
    (({ queued with env := [.reset draw] } : State).seq = .idle ∧ queued.port ≠ []) ∧
    (({ faulted with env := [.reset draw] } : State).seq = .idle ∧ faulted.fault ≠ .none) ∧
    (({ waiting with env := [.reset draw] } : State).seq = .busy (.sendCmd 0x2A) 5 false ∧
      (waiting.program (.sendCmd 0x2A)).drop 5 = .wait :: [.emit (.cs false), .respond false 0] ∧
      waiting.chBusy = true) ∧
    (({ awaiting 0 with env := [.reset draw] } : State).seq = .busy (.exAddNoise true 3 4) 0 true ∧
      ((awaiting 0).program (.exAddNoise true 3 4)).drop 0 = .readNoise 3 :: [.readNoise 4, .addLocalBit] ∧
      (awaiting 0).noiseReady 3 = false) ∧
    (({ awaiting 1 with env := [.reset draw] } : State).seq = .busy (.exAddNoise true 3 4) 1 true ∧
      ((awaiting 1).program (.exAddNoise true 3 4)).drop 1 = .readNoise 4 :: [.addLocalBit] ∧
      (awaiting 1).noiseReady 4 = false) := by decide

/-- Both halves: a step, and a stuck state. -/
theorem witness_StepIsAPathOfMicroSteps :
    (∃ t, step fresh = .next t) ∧ step waiting = .fault .channelHang ∧ step faulted = .fault (.halted .notReady) :=
  ⟨⟨_, rfl⟩, rfl, rfl⟩

theorem witness_StuckChannelHangsTheSequencer :
    waiting.seq = .busy (.sendCmd 0x2A) 5 false ∧
    (waiting.program (.sendCmd 0x2A)).drop 5 = .wait :: [.emit (.cs false), .respond false 0] ∧
    waiting.chBusy = true ∧ waiting.env = [] ∧ waiting.chanFair = false := by decide

theorem witness_SendCmdStaysInProgressOnAStuckChannel :
    stuck.frInit = .ready ∧ stuck.chBusy = false ∧ stuck.env = [] ∧ stuck.chanFair = false := by decide

theorem witness_TxReachesTheSelectedController :
    fresh.lineCs = false ∧
    (({ fresh with lineCs := true, lineCmd := true } : State).lineCs = true ∧
      ({ fresh with lineCs := true, lineCmd := true } : State).lineCmd = true) ∧
    (({ fresh with lineCs := true } : State).lineCs = true ∧
      ({ fresh with lineCs := true } : State).lineCmd = false) := by decide

theorem witness_ReadyCheckComesFirst : fresh.frInit = .uninit ∧ ready.frInit = .ready := by decide

/-- Each way a window can be bad, and the window at the panel's last pixel. -/
theorem witness_WindowCheckRefusesExactlyBadWindows :
    ready.frInit = .ready ∧
    ((0#12).toNat = 0 ∧ ready.cfg.panelW < (1#12).toNat + (128#12).toNat ∧
      ready.cfg.panelH < (127#12).toNat + (2#12).toNat) ∧
    (1 ≤ (1#12).toNat ∧ (127#12).toNat + (1#12).toNat ≤ ready.cfg.panelW ∧
      (0#12).toNat + (128#12).toNat ≤ ready.cfg.panelH) ∧ NoReset ready :=
  ⟨by decide, by decide, by decide, noReset_of_nil rfl⟩

theorem witness_SendCmdCompletes : ready.frInit = .ready ∧ ready.chanFair = true ∧ NoReset ready :=
  ⟨rfl, rfl, noReset_of_nil rfl⟩

/-- A schedule with moves in it meets the hypotheses too. -/
theorem witness_SendDataCompletes :
    ({ ready with env := [.tickElapsed, .channelDone] } : State).frInit = .ready ∧
    ({ ready with env := [.tickElapsed, .channelDone] } : State).chanFair = true ∧
    NoReset { ready with env := [.tickElapsed, .channelDone] } :=
  ⟨rfl, rfl, fun d hd => by simp at hd⟩

theorem witness_SetWindowCompletes :
    ready.frInit = .ready ∧ ready.chanFair = true ∧ NoReset ready ∧ 1 ≤ (1#12).toNat ∧ 1 ≤ (128#12).toNat ∧
    (127#12).toNat + (1#12).toNat ≤ ready.cfg.panelW ∧ (0#12).toNat + (128#12).toNat ≤ ready.cfg.panelH ∧
    [hi8 129, lo8 129, hi8 129, lo8 129] = ([0x00, 0x81, 0x00, 0x81] : List Byte) :=
  ⟨rfl, rfl, noReset_of_nil rfl, by decide, by decide, by decide, by decide, by decide⟩

theorem witness_WritePixelsCompletes : ready.frInit = .ready ∧ ready.chanFair = true ∧ NoReset ready :=
  ⟨rfl, rfl, noReset_of_nil rfl⟩

theorem witness_InitCompletes : fresh.frInit = .uninit ∧ fresh.chanFair = true ∧ NoReset fresh :=
  ⟨rfl, rfl, noReset_of_nil rfl⟩

theorem witness_DisplayOnCompletes : ready.frInit = .ready ∧ ready.chanFair = true ∧ NoReset ready :=
  ⟨rfl, rfl, noReset_of_nil rfl⟩

/-- A clause for each framer request: its count's hypotheses. -/
theorem witness_EventCounts :
    (ready.chanFair = true ∧ NoReset ready ∧ ready.frInit = .ready) ∧
    (fresh.chanFair = true ∧ NoReset fresh ∧ fresh.frInit = .uninit) ∧
    windowOk ready.cfg (127#12).toNat (0#12).toNat (1#12).toNat (128#12).toNat = true ∧
    (∃ t, exec (.sendCmd 0) ready = .next t) ∧ (∃ t, exec (.sendData [] 0) ready = .next t) ∧
    (∃ t, exec (.setWindow 127 0 1 128) ready = .next t) ∧ (∃ t, exec (.writePixels [1] 0) ready = .next t) ∧
    (∃ t, exec .init fresh = .next t) ∧ (∃ t, exec .displayOn ready = .next t) :=
  ⟨⟨rfl, noReset_of_nil rfl, rfl⟩, ⟨rfl, noReset_of_nil rfl, rfl⟩, by decide,
    ⟨_, rfl⟩, ⟨_, rfl⟩, ⟨_, rfl⟩, ⟨_, rfl⟩, ⟨_, rfl⟩, ⟨_, rfl⟩⟩

theorem witness_EveryByteIsFramedBySelect :
    ∃ t, ready.chanFair = true ∧ NoReset ready ∧ exec (.writePixels [0xAB] 2) ready = .next t :=
  ⟨_, rfl, noReset_of_nil rfl, rfl⟩

theorem witness_FramerLeavesTheExtractorAlone :
    ∃ t, isFramer .displayOn = true ∧ NoReset ready ∧ exec .displayOn ready = .next t ∧ ready.env = [] :=
  ⟨_, rfl, noReset_of_nil rfl, rfl, rfl⟩

theorem witness_ExtractorLeavesTheFramerAlone :
    ∃ t, isFramer .exNext = false ∧ NoReset full ∧ exec .exNext full = .next t :=
  ⟨_, rfl, noReset_of_nil rfl, rfl⟩

theorem witness_OnlyInitDrivesPanelReset :
    ∃ t, Instr.sendCmd 0x2A ≠ .init ∧ NoReset ready ∧ exec (.sendCmd 0x2A) ready = .next t :=
  ⟨_, by decide, noReset_of_nil rfl, rfl⟩

theorem witness_WritePixelsIsCommandThenData :
    ∃ t u v, ready.frInit = .ready ∧ ready.chanFair = true ∧ ready.env = [] ∧
      exec (.writePixels [1, 2, 3] 1) ready = .next t ∧ exec (.sendCmd ready.cfg.cmdRamwr) ready = .next u ∧
      exec (.sendData [1, 2, 3] 1) u = .next v :=
  ⟨_, _, _, rfl, rfl, rfl, rfl, rfl, rfl⟩

theorem witness_SetWindowReachesTheReceiver :
    ∃ t, ready.cfg.wf = true ∧ ready.cfg.cmdCaset ≠ ready.cfg.cmdRaset ∧
      ready.cfg.cmdRamwr ≠ ready.cfg.cmdCaset ∧ ready.cfg.cmdRamwr ≠ ready.cfg.cmdRaset ∧ ready.frInit = .ready ∧
      ready.chanFair = true ∧ NoReset ready ∧
      windowOk ready.cfg (127#12).toNat (127#12).toNat (1#12).toNat (1#12).toNat = true ∧
      exec (.setWindow 127 127 1 1) ready = .next t :=
  ⟨_, by decide, by decide, by decide, by decide, rfl, rfl, noReset_of_nil rfl, by decide, rfl⟩

/-- Red, in an odd window at the panel's corner. -/
theorem witness_FillRectPaintsExactlyItsWindow :
    ready.cfg.wf = true ∧ ready.cfg.rxScan = .rowMajor ∧ ready.cfg.rxWrap = .toStart ∧
    ready.cfg.cmdCaset ≠ ready.cfg.cmdRaset ∧ ready.cfg.cmdCaset ≠ ready.cfg.cmdRamwr ∧
    ready.cfg.cmdRaset ≠ ready.cfg.cmdRamwr ∧ Memory.wf ready.rx.ram = true ∧ ready.frInit = .ready ∧
    ready.chanFair = true ∧ NoReset ready ∧
    windowOk ready.cfg (125#12).toNat (125#12).toNat (3#12).toNat (3#12).toNat = true ∧
    firstPixel 0xF0 0x0F = 0xF00 ∧ secondPixel 0x0F 0x00 = 0xF00 :=
  ⟨by decide, rfl, rfl, by decide, by decide, by decide, rfl, rfl, rfl, noReset_of_nil rfl, by decide, by decide,
    by decide⟩

theorem witness_CommandsMoveOnlyTheWritePointer :
    (0x2C : Byte) = conf.cmdRamwr ∧ (0x2A : Byte) ≠ conf.cmdRamwr := by decide

/-- After no command, and after the color-mode command. -/
theorem witness_OtherDataIsIgnored :
    fresh.rx.cmd = none ∧ (after (.sendCmd 0x3A) ready).rx.cmd = some 0x3A ∧
    (0x3A : Byte) ≠ conf.cmdCaset ∧ (0x3A : Byte) ≠ conf.cmdRaset ∧ (0x3A : Byte) ≠ conf.cmdRamwr := by decide

/-- The 2x1 window, and one that is empty in columns and one in rows. -/
theorem witness_ThreeBytesWriteTwoPixels :
    conf.rxScan = .rowMajor ∧ conf.rxWrap = .toStart ∧ painting.cmd = some conf.cmdRamwr ∧
    conf.cmdRamwr ≠ conf.cmdCaset ∧ conf.cmdRamwr ≠ conf.cmdRaset ∧ painting.pix = [0x12, 0x34] ∧
    painting.xs.toNat ≤ painting.xe.toNat ∧ painting.ys.toNat ≤ painting.ye.toNat ∧
    Memory.wf painting.ram = true ∧ (0x123 : Pixel).toNat = (0x12 : Byte).toNat * 16 + (0x34 : Byte).toNat / 16 ∧
    (0x456 : Pixel).toNat = (0x34 : Byte).toNat % 16 * 256 + (0x56 : Byte).toNat ∧
    ¬ painting.xe.toNat < painting.cx.toNat + 1 ∧ ¬ painting.ye.toNat < painting.cy.toNat ∧
    ({ painting with xe := 1 } : Receiver).xe.toNat < painting.xs.toNat ∧
    ({ painting with ye := 2 } : Receiver).ye.toNat < painting.ys.toNat := by decide

theorem witness_AddBitFollowsTheFiveSteps :
    (7 : BitVec 3).toNat = (2 * (extractor [] 0 0 0 3 2).cand.toNat + true.toNat) % 8 := by decide

/-- The extractor's invariant on a half full buffer with its head past the start. -/
theorem two_inv : ExtractorInv two.cfg.k two.ex := by
  refine ⟨by decide, by decide, by decide, by decide, by decide, by decide, by decide, ?_⟩
  intro j hj
  have : j = 0 ∨ j = 1 := by
    have h : j < 2 := hj
    omega
  rcases this with rfl | rfl <;> decide

/-- The bits 1 1 0 (accepted) and 1 1 1 (rejected). -/
theorem witness_ThreeBitsFormOneCandidate :
    ExtractorInv two.cfg.k two.ex ∧ two.ex.avail < two.cfg.k ∧ two.ex.nbits = 0 ∧
    (∃ t u v, exec (.exAddBit true) two = .next t ∧ exec (.exAddBit true) t = .next u ∧
      exec (.exAddBit false) u = .next v) ∧
    4 * true.toNat + 2 * true.toNat + false.toNat < 7 ∧ 4 * true.toNat + 2 * true.toNat + true.toNat = 7 :=
  ⟨two_inv, by decide, by decide, ⟨_, _, _, rfl, rfl, rfl⟩, by decide, by decide⟩

/-- Both ends of the samples, and both sides of the uniform case. -/
theorem witness_AcceptedSamplesFollowTheirWeights :
    ExtractorInv two.cfg.k two.ex ∧ two.ex.avail < two.cfg.k ∧ two.ex.nbits = 0 ∧ (0 : Sample).toNat < 7 ∧
    (6 : Sample).toNat < 7 ∧ 0 < 1 :=
  ⟨two_inv, by decide, by decide, by decide, by decide, by decide⟩

theorem witness_FullBufferDiscardsTheBit :
    full.ex.avail = full.cfg.k ∧ NoReset full ∧ full.noiseFair = true ∧
    ∃ t, exec (.exAddNoise false 3 0) full = .next t :=
  ⟨rfl, noReset_of_nil rfl, rfl, ⟨_, rfl⟩⟩

theorem witness_NextTakesTheOldestSample :
    ExtractorInv two.cfg.k two.ex ∧ two.ex.queue two.cfg.k = 6 :: [2] := ⟨two_inv, by decide⟩

theorem witness_NextOnEmptyAnswersTheFallback : fresh.ex.avail = 0 := by decide

theorem witness_AccessorsAnswerCountAndCapacity : full.cfg.wf = true ∧ full.ex.avail ≤ full.cfg.k := by decide

theorem witness_AddNoiseUsesBitZeroOfOneSample :
    noisy.noise = [⟨4, 0x1A4⟩] ++ ⟨3, 0x2F5⟩ :: [⟨3, 0x003⟩] ∧
    ∀ n ∈ [(⟨4, 0x1A4⟩ : NoiseSample)], n.channel ≠ 3 := by decide

/-- The same channel twice, with another channel's sample before both. -/
theorem witness_AddNoiseXorsTwoSamples :
    noisy.noise = [⟨4, 0x1A4⟩] ++ ⟨3, 0x2F5⟩ :: [⟨3, 0x003⟩] ∧
    (∀ n ∈ [(⟨4, 0x1A4⟩ : NoiseSample)], n.channel ≠ 3) ∧
    [(⟨4, 0x1A4⟩ : NoiseSample)] ++ [⟨3, 0x003⟩] = [⟨4, 0x1A4⟩] ++ ⟨3, 0x003⟩ :: [] := by decide

theorem witness_AddNoiseCompletesUnderFairness : fresh.noiseFair = true ∧ fresh.noise = [] ∧ NoReset fresh :=
  ⟨rfl, rfl, noReset_of_nil rfl⟩

/-- A first channel with no sample, and a second one with none once the first channel's sample is read, the same channel
among them. -/
theorem witness_StuckNoiseChannelHangsTheRequest :
    (({ noisy with noiseFair := false } : State).noiseFair = false ∧ noisy.env = [] ∧
      ∀ n ∈ noisy.noise, n.channel ≠ 5) ∧
    (noisy.noise = [⟨4, 0x1A4⟩] ++ ⟨3, 0x2F5⟩ :: [⟨3, 0x003⟩] ∧
      (∀ n ∈ [(⟨4, 0x1A4⟩ : NoiseSample)], n.channel ≠ 3) ∧
      ∀ n ∈ [(⟨4, 0x1A4⟩ : NoiseSample)] ++ [⟨3, 0x003⟩], n.channel ≠ 5) ∧
    (noisy.noise = [] ++ ⟨4, 0x1A4⟩ :: [⟨3, 0x2F5⟩, ⟨3, 0x003⟩] ∧
      ∀ n ∈ ([] : List NoiseSample) ++ [⟨3, 0x2F5⟩, ⟨3, 0x003⟩], n.channel ≠ 4) := by decide

/-- The reset state, in a configuration that is well formed. -/
theorem witness_EveryStepKeepsTheMachineInvariant : ∃ t, MachineInv fresh ∧ step fresh = .next t :=
  ⟨_, ⟨by decide, ⟨by decide, by decide, by decide, by decide, by decide, by decide, by decide,
    fun j hj => absurd hj (Nat.not_lt_zero j)⟩, ⟨by decide, by decide, by decide⟩,
    ⟨by decide, by decide, by decide, by decide⟩, ⟨by decide, fun h => absurd rfl h⟩⟩, rfl⟩

theorem witness_ResetMeetsTheMachineInvariant : conf.wf = true := by decide

theorem witness_FairStepsEndQuiescent :
    ∃ t, Fair queued ∧ Quiescent queued ∧ step queued = .next t := ⟨_, ⟨rfl, rfl⟩, ⟨rfl, rfl⟩, rfl⟩

theorem witness_ReadyLastsUntilReset :
    ∃ t, ready.frInit = .ready ∧ NoReset ready ∧ step ready = .next t := ⟨_, rfl, noReset_of_nil rfl, rfl⟩

theorem witness_BusLogOnlyGrows : ∃ t, NoReset queued ∧ step queued = .next t := ⟨_, noReset_of_nil rfl, rfl⟩

/-- A one-pixel window, an even one and an odd one. -/
theorem witness_FillRepeatCoversTheArea :
    (1 ≤ 1 * 1 ∧ 1 * 1 % 2 = 1) ∧ (1 ≤ 2 * 2 ∧ 2 * 2 % 2 = 0) ∧ (1 ≤ 5 * 5 ∧ 5 * 5 % 2 = 1) := by decide

theorem witness_DrawScoreClampsForDisplay : layout.scoreMax ≤ 1000 ∧ layout.scoreMax ≤ 999 := by decide

/-- The flag set, with a schedule in which it elapses again; the two moves; and a glue iteration that finds the flag set,
one that finds a tick scheduled, and one that finds nothing. -/
theorem witness_TickFlagLastsUntilTheHostClearsIt :
    (∃ t, ({ fresh with tickDeadline := true, env := [.tickElapsed] } : State).tickDeadline = true ∧
      EnvMove.clearDeadline ∉ ({ fresh with tickDeadline := true, env := [.tickElapsed] } : State).env ∧
      NoReset { fresh with tickDeadline := true, env := [.tickElapsed] } ∧
      step { fresh with tickDeadline := true, env := [.tickElapsed] } = .next t) ∧
    (({ fresh with env := [.tickElapsed] } : State).seq = .idle ∧ fresh.port = []) ∧
    ({ fresh with env := [.clearDeadline] } : State).env = .clearDeadline :: [] ∧
    ({ fresh with tickDeadline := true } : State).tickDeadline = true ∧
    (({ fresh with env := [.tickElapsed] } : State).tickDeadline = false ∧
      ({ fresh with env := [.tickElapsed] } : State).env = .tickElapsed :: []) ∧
    (fresh.tickDeadline = false ∧ fresh.seq = .idle ∧ fresh.fault = .none ∧ fresh.port = [] ∧ fresh.env = []) :=
  ⟨⟨_, rfl, by decide, fun d hd => by simp at hd, rfl⟩, by decide, by decide, by decide, by decide, by decide⟩

end Sys2Proof.Tests
end

/-! PROOF. A step of the machine is a path of the agents' finest steps: at the request port, at an await and along a
request's pseudocode. -/

namespace Sys2Proof.Machine

/-! ### Paths of the finest steps -/

/-- Some number of the agents' finest steps leads from `s` to `t`. -/
def MicroPath (s t : State) : Prop := ∃ n, microRun n s = .next t

theorem MicroPath.refl (s : State) : MicroPath s s := ⟨0, rfl⟩

theorem MicroPath.head {s u t : State} (h : microStep s = .next u) : MicroPath u t → MicroPath s t
  | ⟨n, hn⟩ => ⟨n + 1, by simp only [microRun, h, hn]⟩

theorem MicroPath.single {s t : State} (h : microStep s = .next t) : MicroPath s t := .head h (.refl t)

theorem MicroPath.trans {s u t : State} (h : MicroPath s u) (g : MicroPath u t) : MicroPath s t := by
  obtain ⟨n, hn⟩ := h
  induction n generalizing s with
  | zero => cases hn; exact g
  | succ n ih =>
    cases hs : microStep s with
    | next v => exact .head hs (ih (by simpa only [microRun, hs] using hn))
    | fault f => simp [microRun, hs] at hn
    | refused r => simp [microRun, hs] at hn

/-! ### The place in a request's pseudocode -/

/-- A request is in progress, and `ps` is what is left of its pseudocode (10_state.md R26). -/
def State.AtPrims (ps : List Prim) (s : State) : Prop :=
  ∃ req pos bit, s.seq = .busy req pos bit ∧ (s.program req).drop pos = ps

/-- The pseudocode depends on the configuration and the loaded payload only. -/
theorem State.program_congr {s t : State} (hc : t.cfg = s.cfg) (hb : t.plBuf = s.plBuf) (hl : t.plLen = s.plLen)
    (req : Instr) : t.program req = s.program req := by
  have hp : t.payload = s.payload := by simp only [State.payload, hb, hl]
  cases req <;> simp only [State.program, hc, hp]

theorem State.AtPrims.sameBlock {ps : List Prim} {s t : State} (h : s.AtPrims ps) (g : SameBlock s t) :
    t.AtPrims ps := by
  obtain ⟨req, pos, bit, hq, hd⟩ := h
  obtain ⟨b, hb⟩ := g
  obtain ⟨hcfg, -, -, -, -, -, hseq, -, hbuf, hlen, -⟩ := (blockView_eq_iff _ _).1 hb
  exact ⟨req, pos, bit, hseq.trans hq, by rw [State.program_congr (s := s) hcfg hbuf hlen, hd]⟩

/-- An accepted request stands at the start of its pseudocode. -/
theorem State.begin_atPrims (i : Instr) (s : State) : (s.begin i).AtPrims ((s.begin i).program i) :=
  ⟨i, 0, false, State.begin_seq i s, rfl⟩

/-- No primitive writes what the pseudocode is read from. -/
theorem State.perform_program (p : Prim) (s : State) (req : Instr) : (s.perform p).program req = s.program req := by
  have raise_keeps (f : FaultCode) : (s.raise f).program req = s.program req := State.program_congr rfl rfl rfl req
  have advance_keeps : s.advance.program req = s.program req := State.program_congr rfl rfl rfl req
  cases p with
  | checkReady => rw [State.perform]; split <;> simp only [raise_keeps, advance_keeps]
  | checkUninit => rw [State.perform]; split <;> simp only [raise_keeps, advance_keeps]
  | checkWindow => rw [State.perform]; split <;> simp only [raise_keeps, advance_keeps]
  | takeNext => rw [State.perform, State.takeNext]; split <;> exact State.program_congr rfl rfl rfl req
  | emit e =>
    exact State.program_congr (State.emit_cfg e s) (State.emit_plBuf e s) (State.emit_plLen e s) req
  | _ => exact State.program_congr rfl rfl rfl req

/-- A primitive ends its request, or goes on to the next position. -/
theorem State.perform_seq {req : Instr} {pos : Nat} {bit : Bool} (p : Prim) {s : State}
    (h : s.seq = .busy req pos bit) :
    (s.perform p).seq = .idle ∨ ∃ bit', (s.perform p).seq = .busy req (pos + 1) bit' := by
  have hadv : s.advance.seq = .busy req (pos + 1) bit := by simp [State.advance, h]
  cases p with
  | checkReady => rw [State.perform]; split; exacts [.inl rfl, .inr ⟨bit, hadv⟩]
  | checkUninit => rw [State.perform]; split; exacts [.inl rfl, .inr ⟨bit, hadv⟩]
  | checkWindow => rw [State.perform]; split; exacts [.inr ⟨bit, hadv⟩, .inl rfl]
  | takeNext => rw [State.perform, State.takeNext]; split; exacts [.inl rfl, .inl rfl]
  | emit e => exact .inr ⟨bit, by simp [State.perform, State.advance, h]⟩
  | wait => exact .inr ⟨bit, hadv⟩
  | setReady => exact .inr ⟨bit, hadv⟩
  | readNoise ch => exact .inr ⟨_, by simp only [State.perform, State.advance, State.readNoise_seq, h]; rfl⟩
  | _ => exact .inl rfl

/-- A primitive that does not end its request leaves the rest of the pseudocode. -/
theorem State.AtPrims.perform {p : Prim} {ps : List Prim} {s : State} (h : s.AtPrims (p :: ps))
    (hb : (s.perform p).seq.isIdle = false) : (s.perform p).AtPrims ps := by
  obtain ⟨req, pos, bit, hq, hd⟩ := h
  rcases State.perform_seq p hq with hi | ⟨bit', hi⟩
  · simp [hi] at hb
  · refine ⟨req, pos + 1, bit', hi, ?_⟩
    rw [State.perform_program, ← List.drop_drop, hd, List.drop_one, List.tail_cons]

/-! ### The finest step in the middle of a request -/

section
variable {p : Prim} {ps : List Prim} {s : State}

theorem microStep_perform (h : s.AtPrims (p :: ps)) (he : s.enabled p = true) :
    microStep s = .next (s.perform p) := by
  obtain ⟨req, pos, bit, hq, hd⟩ := h
  simp [microStep, hq, State.microBusy, hd, he]

theorem microStep_move {m : EnvMove} {ms : List EnvMove} (h : s.AtPrims (p :: ps)) (he : ¬ s.enabled p = true)
    (hm : s.env = m :: ms) : microStep s = .next (({ s with env := ms } : State).move m) := by
  obtain ⟨req, pos, bit, hq, hd⟩ := h
  simp [microStep, hq, State.microBusy, hd, he, hm]

theorem microStep_grant {t : State} (h : s.AtPrims (p :: ps)) (he : ¬ s.enabled p = true) (hm : s.env = [])
    (hg : s.grant p = some t) : microStep s = .next t := by
  obtain ⟨req, pos, bit, hq, hd⟩ := h
  simp [microStep, hq, State.microBusy, hd, he, hm, hg]

theorem microStep_stuck (h : s.AtPrims (p :: ps)) (hs : s.stuckAt p = true) :
    microStep s = .fault (hangOf p) := by
  obtain ⟨req, pos, bit, hq, hd⟩ := h
  obtain ⟨⟨he, hm⟩, hg⟩ : (s.enabled p = false ∧ s.env = []) ∧ s.grant p = none := by simpa [State.stuckAt] using hs
  simp [microStep, hq, State.microBusy, hd, he, hm, hg]

end

/-! ### An await, and the rest of a request -/

/-- The state in which an await ends, however it ends. -/
def Awaited.state : Awaited → State
  | .holds s     => s
  | .blocked s   => s
  | .abandoned s => s

/-- An await is a path: each scheduled move, or the step that fairness grants, is one finest step. -/
theorem microPath_awaitFor {p : Prim} {ps : List Prim} (env : List EnvMove) (s : State) (hv : s.env = env)
    (h : s.AtPrims (p :: ps)) : MicroPath s (State.awaitFor p env s).state := by
  induction env generalizing s with
  | nil =>
    by_cases he : s.enabled p = true
    · rw [State.awaitFor_enabled p _ s he]; exact .refl s
    · cases hg : s.grant p with
      | some t => simpa [State.awaitFor, Awaited.state, he, hg] using MicroPath.single (microStep_grant h he hv hg)
      | none => simpa [State.awaitFor, Awaited.state, he, hg] using MicroPath.refl s
  | cons m ms ih =>
    by_cases he : s.enabled p = true
    · rw [State.awaitFor_enabled p _ s he]; exact .refl s
    · have hstep := microStep_move h he hv
      by_cases hi : (({ s with env := ms } : State).move m).seq.isIdle = true
      · simpa [State.awaitFor, Awaited.state, he, hi] using MicroPath.single hstep
      · have hr : ∀ d, m ≠ .reset d := by
          rintro d rfl
          exact hi rfl
        have hs : SameBlock s { s with env := ms } := ⟨s.chBusy, rfl⟩
        have rest := ih _ (State.move_env m _) (h.sameBlock (hs.trans (.move m _ hr)))
        simpa [State.awaitFor, Awaited.state, he, hi] using rest.head hstep

/-- What the sequencer runs is a path, one primitive or one awaited move at a time. -/
theorem microPath_run (ps : List Prim) (s : State) (h : s.AtPrims ps) : MicroPath s (s.run ps) := by
  induction ps generalizing s with
  | nil => exact .refl s
  | cons p ps ih =>
    have path := microPath_awaitFor s.env s rfl h
    rw [State.run]
    rcases State.awaitFor_cases p s.env s rfl with
      ⟨t, ha, he, hs, -⟩ | ⟨t, ha, -⟩ | ⟨t, ha, -⟩ <;> rw [ha] at path ⊢
    · have ht := h.sameBlock hs
      have hstep := microStep_perform ht he
      dsimp only
      split
      next => exact path.trans (.single hstep)
      next hb => exact path.trans ((ih _ (ht.perform (by simpa using hb))).head hstep)
    · exact path
    · exact path

/-! ### The request port, and the whole step -/

/-- A request's meaning runs its pseudocode from the state that the port's acceptance leaves. -/
theorem exec_eq_run (i : Instr) (s : State) : exec i s = .next ((s.begin i).run ((s.begin i).program i)) := by
  cases i <;> rfl

/-- The port's answer to a request always is a next state, on a path from its acceptance in one finest step. -/
theorem acceptRequest_microPath (r : Request) (s : State) :
    ∃ t, s.acceptRequest r = .next t ∧ MicroPath (s.microAccept r) t := by
  rw [State.acceptRequest, State.microAccept]
  cases decode s.cfg r.word r.payload with
  | error e => exact ⟨_, rfl, .refl _⟩
  | ok i => exact ⟨_, exec_eq_run i s, microPath_run _ _ (State.begin_atPrims i s)⟩

/-- A step is a finest step, a stuck one included, or it answers the end of a path. -/
theorem step_cases (s : State) : step s = microStep s ∨ ∃ t, step s = .next t ∧ MicroPath s t := by
  cases hq : s.seq with
  | idle =>
    have hstep : step s = s.idleStep := step_of_idle (port := s.port) hq
    by_cases ho : s.portOpen = true
    · cases hp : s.port with
      | nil => left; simp [hstep, State.idleStep, microStep, hq, ho, hp]
      | cons r rs =>
        right
        have hm : microStep s = .next (({ s with port := rs } : State).microAccept r) := by
          simp [microStep, hq, ho, hp]
        obtain ⟨t, ht, path⟩ := acceptRequest_microPath r { s with port := rs }
        exact ⟨t, by simpa [hstep, State.idleStep, ho, hp] using ht, path.head hm⟩
    · left; simp [hstep, State.idleStep, microStep, hq, ho]
  | busy req pos bit =>
    have hstep : step s = s.resume req pos := by simp only [step, hq]
    cases hd : (s.program req).drop pos with
    | nil => left; simp [hstep, State.resume, microStep, State.microBusy, hq, hd]
    | cons p ps =>
      have hat : s.AtPrims (p :: ps) := ⟨req, pos, bit, hq, hd⟩
      by_cases hs : s.stuckAt p = true
      · left; simp [hstep, State.resume, hd, hs, microStep_stuck hat hs]
      · exact .inr ⟨s.run (p :: ps), by simp [hstep, State.resume, hd, hs], microPath_run _ s hat⟩

/-- Settles O17: by the two ways a step can go, a finest step itself or the end of a path of them. -/
theorem stepIsAPathOfMicroSteps : Obligations.StepIsAPathOfMicroSteps := by
  refine ⟨fun s t h => ?_, fun s f h => ?_⟩
  · rcases step_cases s with hm | ⟨u, hu, path⟩
    · exact MicroPath.single (hm ▸ h)
    · cases hu.symm.trans h
      exact path
  · rcases step_cases s with hm | ⟨u, hu, -⟩
    · exact hm ▸ h
    · cases hu.symm.trans h

end Sys2Proof.Machine

/-! PROOF. What every step of the machine keeps (10_state.md): one finest step of an agent is read off once, a step is a
path of them, and each invariant is then a short case analysis. With them the reset values of R45. -/

namespace Sys2Proof.Machine

/-! ### What one agent's finest step can do -/

/-- The finest steps by what they do to the block: other agents move and the block is as it was but for its busy bit,
block reset comes, the sequencer performs a primitive of the request in progress, or the port of the idle unfaulted
block takes a request, refusing it or accepting it with a payload that fits its buffer. -/
inductive AgentStep (s : State) : State → Prop where
  | others {t : State} (same : SameBlock s t) (sub : t.env ⊆ s.env) : AgentStep s t
  | reset {d : ResetDraw} {ms : List EnvMove} (due : s.env = .reset d :: ms) :
      AgentStep s (({ s with env := ms } : State).blockReset d)
  | perform {p : Prim} (busy : s.seq ≠ .idle) : AgentStep s (s.perform p)
  | refuse {rs : List Request} : AgentStep s (({ s with port := rs } : State).raise .illegalRequest)
  | accept {i : Instr} {rs : List Request} (unfaulted : s.fault = .none)
      (fits : (payloadOf i).length ≤ s.cfg.payloadMax) : AgentStep s (({ s with port := rs } : State).begin i)

/-- A request that decodes has a payload within `PAYLOAD_MAX` (30_encoding.md R97, R99). -/
theorem payload_fits_of_decode {c : Config} {w : RequestWord} {p : List Byte} {i : Instr}
    (h : decode c w p = .ok i) : (payloadOf i).length ≤ c.payloadMax := by
  obtain ⟨op, -, -, hpay, -, rfl⟩ := (decode_eq_ok_iff c w p i).1 h
  have hfit (hd : formatOf op = .data) : p.length ≤ c.payloadMax := by
    simp only [hd, payloadError, carriesPayload, if_true] at hpay
    split at hpay <;> simp_all
  cases op with
  | sendData => exact hfit rfl
  | writePixels => exact hfit rfl
  | _ => exact Nat.zero_le _

section
variable {s t : State}

theorem AgentStep.move {m : EnvMove} {ms : List EnvMove} (h : s.env = m :: ms) :
    AgentStep s (({ s with env := ms } : State).move m) := by
  by_cases hr : ∃ d, m = .reset d
  · obtain ⟨d, rfl⟩ := hr
    exact .reset h
  · have same : SameBlock s { s with env := ms } := ⟨s.chBusy, rfl⟩
    refine .others (same.trans (.move m _ fun d hd => hr ⟨d, hd⟩)) ?_
    rw [State.move_env, h]
    exact List.subset_cons_self m ms

theorem AgentStep.of_idleMove (h : s.idleMove = .next t) : AgentStep s t := by
  rw [State.idleMove] at h
  split at h
  next m ms hm => cases h; exact .move hm
  next =>
    split at h
    · cases h; exact .others (.refl s) (List.Subset.refl _)
    · cases h

theorem AgentStep.of_microAccept (r : Request) (rs : List Request) (hf : s.fault = .none) :
    AgentStep s (({ s with port := rs } : State).microAccept r) := by
  rw [State.microAccept]
  split
  next => exact .refuse
  next hd => exact .accept hf (payload_fits_of_decode hd)

theorem AgentStep.of_microBusy {req : Instr} {pos : Nat} (hq : s.seq ≠ .idle)
    (h : s.microBusy req pos = .next t) : AgentStep s t := by
  rw [State.microBusy] at h
  split at h
  · cases h
  · split at h
    · cases h; exact .perform hq
    · split at h
      next hm => cases h; exact .move hm
      next =>
        split at h
        next hg => cases h; exact .others (.grant hg) (by rw [State.grant_env hg]; exact List.Subset.refl _)
        next => cases h

/-- Every finest step is one of them. -/
theorem AgentStep.of_microStep (h : microStep s = .next t) : AgentStep s t := by
  rw [microStep] at h
  split at h
  next hq => exact .of_microBusy (by simp [hq]) h
  next =>
    split at h
    next ho =>
      have hf : s.fault = .none := by
        simp only [State.portOpen, Bool.and_eq_true, beq_iff_eq] at ho
        exact ho.1
      split at h
      next r rs _ => cases h; exact .of_microAccept r rs hf
      next => exact .of_idleMove h
    next => exact .of_idleMove h

/-! ### What one primitive can do -/

/-- The primitives by what they do: go on, fault, emit an event, make the framer ready, respond, or act on the extractor
or the noise source. -/
inductive PrimStep (p : Prim) (s : State) : State → Prop where
  | advance : PrimStep p s s.advance
  | raise (f : FaultCode) : PrimStep p s (s.raise f)
  | emit (e : BusEvent) (own : e = .wait ∨ p = .emit e) : PrimStep p s (s.emit e).advance
  | setReady : PrimStep p s ({ s with frInit := .ready } : State).advance
  | respond (v : Bool) (b : Byte) : PrimStep p s (s.respond v b)
  | addBit (b : Bool) : PrimStep p s (s.addBit b)
  | pop (v : Byte) (nonempty : 0 < s.ex.avail) :
      PrimStep p s (({ s with ex := s.ex.pop s.cfg.k } : State).respond true v)
  | readNoise (ch : Byte) : PrimStep p s (s.readNoise ch).advance

/-- Every primitive is one of them. -/
theorem PrimStep.of_perform (p : Prim) (s : State) : PrimStep p s (s.perform p) := by
  cases p with
  | checkReady => rw [State.perform]; split; exacts [.raise _, .advance]
  | checkUninit => rw [State.perform]; split; exacts [.raise _, .advance]
  | checkWindow => rw [State.perform]; split; exacts [.advance, .raise _]
  | emit e => exact .emit e (.inr rfl)
  | wait => exact .emit .wait (.inl rfl)
  | setReady => exact .setReady
  | respond v b => exact .respond v b
  | addBit b => exact .addBit b
  | readNoise ch => exact .readNoise ch
  | addLocalBit => exact .addBit _
  | takeNext =>
    rw [State.perform, State.takeNext]
    split
    next h => exact .pop _ h
    next => exact .respond _ _
  | readAvailable => exact .respond _ _
  | readCapacity => exact .respond _ _

section
variable {p : Prim} {s t : State}

/-- No primitive touches the schedule. -/
theorem PrimStep.env_eq (h : PrimStep p s t) : t.env = s.env := by
  cases h with
  | emit e => simp
  | _ => rfl

/-- A primitive leaves `FR_INIT` or makes it READY (10_state.md R22). -/
theorem PrimStep.frInit_ready (h : PrimStep p s t) (hs : s.frInit = .ready) : t.frInit = .ready := by
  cases h with
  | emit e => simpa using hs
  | setReady => rfl
  | _ => exact hs

/-- A primitive leaves the log or appends its event (20_memory.md R56). -/
theorem PrimStep.busLog_prefix (h : PrimStep p s t) : s.busLog <+: t.busLog := by
  cases h with
  | emit e => simp
  | _ => exact List.prefix_rfl

/-- No primitive but the event `RST(b)` drives the panel reset line (20_memory.md R61). -/
theorem PrimStep.lineRst_eq (h : PrimStep p s t) (hp : ∀ b, p ≠ .emit (.rst b)) : t.lineRst = s.lineRst := by
  cases h with
  | emit e own =>
    cases e with
    | rst b =>
      rcases own with hw | hw
      · cases hw
      · exact absurd hw (hp b)
    | _ => rfl
  | _ => rfl

end

/-! ### What every finest step keeps, every step keeps -/

theorem step_keeps {Q : State → Prop} (hQ : ∀ s t, AgentStep s t → Q s → Q t) (hs : Q s) (h : step s = .next t) :
    Q t := by
  obtain ⟨n, hn⟩ := stepIsAPathOfMicroSteps.1 s t h
  clear h
  induction n generalizing s with
  | zero => cases hn; exact hs
  | succ n ih =>
    cases hm : microStep s with
    | next u => exact ih (hQ s u (.of_microStep hm) hs) (by simpa only [microRun, hm] using hn)
    | fault f => simp [microRun, hm] at hn
    | refused r => simp [microRun, hm] at hn

/-- Scheduled moves are only taken off the schedule. -/
theorem AgentStep.env_subset (h : AgentStep s t) : t.env ⊆ s.env := by
  cases h with
  | others same sub => exact sub
  | @reset d ms due => rw [due]; exact List.subset_cons_self _ ms
  | perform busy => rw [(PrimStep.of_perform _ s).env_eq]; exact List.Subset.refl _
  | refuse => exact List.Subset.refl _
  | accept => rw [State.begin_env]; exact List.Subset.refl _

theorem step_keeps_of_noReset {Q : State → Prop} (hQ : ∀ s t, AgentStep s t → NoReset s → Q s → Q t)
    (hn : NoReset s) (hs : Q s) (h : step s = .next t) : Q t :=
  (step_keeps (Q := fun s => NoReset s ∧ Q s)
    (fun s t ha hs => ⟨fun d hd => hs.1 d (ha.env_subset hd), hQ s t ha hs.1 hs.2⟩) ⟨hn, hs⟩ h).2

end

/-! ### FR_INIT and the log until block reset -/

section
variable {s t : State}

/-- What the block's view determines, but for the busy bit, is the same in both states. -/
theorem SameBlock.view_eq {α : Sort*} (h : SameBlock s t) (f : State → α)
    (hf : ∀ u b, f ({ u with chBusy := b } : State).blockView = f u) : f t = f s := by
  obtain ⟨b, hb⟩ := h
  calc f t = f t.blockView := (hf t t.chBusy).symm
    _ = f ({ s with chBusy := b } : State).blockView := by rw [hb]
    _ = f s := hf s b

theorem NoReset.not_due {d : ResetDraw} {ms : List EnvMove} (hn : NoReset s) : s.env ≠ .reset d :: ms :=
  fun h => hn d (by simp [h])

theorem AgentStep.frInit_ready (h : AgentStep s t) (hn : NoReset s) (hs : s.frInit = .ready) : t.frInit = .ready := by
  cases h with
  | others same sub => rw [same.view_eq State.frInit fun _ _ => rfl, hs]
  | reset due => exact absurd due hn.not_due
  | perform busy => exact (PrimStep.of_perform _ s).frInit_ready hs
  | refuse => exact hs
  | accept => rw [State.begin_frInit]; exact hs

theorem AgentStep.busLog_prefix (h : AgentStep s t) (hn : NoReset s) : s.busLog <+: t.busLog := by
  cases h with
  | others same sub => rw [same.view_eq State.busLog fun _ _ => rfl]
  | reset due => exact absurd due hn.not_due
  | perform busy => exact (PrimStep.of_perform _ s).busLog_prefix
  | refuse => exact List.prefix_rfl
  | accept => rw [State.begin_busLog]

end

/-- Settles O56: no finest step but block reset moves `FR_INIT` back. -/
theorem readyLastsUntilReset : Obligations.ReadyLastsUntilReset := fun _ _ hr hn h =>
  step_keeps_of_noReset (Q := fun u => u.frInit = .ready) (fun _ _ ha hn => ha.frInit_ready hn) hn hr h

/-- Settles O57: every finest step but block reset leaves the log at the front of the new one. -/
theorem busLogOnlyGrows : Obligations.BusLogOnlyGrows := by
  intro s t hn h
  obtain ⟨es, hes⟩ : s.busLog <+: t.busLog :=
    step_keeps_of_noReset (Q := fun u => s.busLog <+: u.busLog) (fun _ _ ha hn hs => hs.trans (ha.busLog_prefix hn))
      hn List.prefix_rfl h
  exact ⟨es, hes.symm⟩

/-! ### The panel reset line -/

/-- What the primitives of a list keep, and the moves between them, its run keeps, with no reset scheduled. -/
theorem run_keeps {Q : State → Prop} (hsame : ∀ s t, SameBlock s t → Q s → Q t) (ps : List Prim)
    (hperform : ∀ p ∈ ps, ∀ s, Q s → Q (s.perform p)) (s : State) (hn : NoReset s) (hb : s.seq.isIdle = false)
    (hs : Q s) : Q (s.run ps) := by
  induction ps generalizing s with
  | nil => exact hs
  | cons p ps ih =>
    rw [State.run]
    rcases State.awaitFor_cases p s.env s rfl with
      ⟨t, ha, -, same, henv⟩ | ⟨t, ha, -, -, -, same⟩ | ⟨t, -, -, hidle | ⟨-, d, -, -, hd⟩⟩
    · rw [ha]
      have ht : Q (t.perform p) := hperform p List.mem_cons_self t (hsame s t same hs)
      dsimp only
      split
      · exact ht
      next hbt =>
        refine ih (fun q hq => hperform q (List.mem_cons_of_mem p hq)) _ (fun d hd => ?_) (by simpa using hbt) ht
        rw [(PrimStep.of_perform p t).env_eq] at hd
        exact hn d (henv _ hd)
    · rw [ha]
      exact hsame s t same hs
    · simp [hidle] at hb
    · exact absurd hd (hn d)

theorem rst_not_mem_cmd (b : Bool) (c : Byte) : Prim.emit (.rst b) ∉ cmd c := by simp [cmd]

theorem rst_not_mem_data (b : Bool) (bytes : List Byte) (r : Nat) : Prim.emit (.rst b) ∉ data bytes r := by
  simp [data, repetitions_eq, dataByte]

/-- Only INIT's pseudocode has the event `RST(b)` (40_framer.md R140). -/
theorem rst_not_mem_program (b : Bool) (s : State) {i : Instr} (hi : i ≠ .init) :
    Prim.emit (.rst b) ∉ s.program i := by
  cases i with
  | init => exact absurd rfl hi
  | exAddNoise two chA chB => cases two <;> simp [State.program, progAddNoise]
  | _ =>
    simp [State.program, progSendCmd, progSendData, progSetWindow, progWritePixels, progDisplayOn, progAddBit, progNext,
      progAvailable, progCapacity, rst_not_mem_cmd, rst_not_mem_data]

/-- A request but INIT leaves the panel reset line, whatever the channel does. -/
theorem exec_lineRst {i : Instr} {s t : State} (hi : i ≠ .init) (hn : NoReset s) (h : exec i s = .next t) :
    t.lineRst = s.lineRst := by
  rw [exec_eq_run] at h
  cases h
  have hsame (u v : State) (same : SameBlock u v) (hu : u.lineRst = s.lineRst) : v.lineRst = s.lineRst :=
    (same.view_eq State.lineRst fun _ _ => rfl).trans hu
  refine run_keeps (Q := fun u => u.lineRst = s.lineRst) hsame _ ?_ _ ?_ ?_ ?_
  · intro p hp u hu
    refine ((PrimStep.of_perform p u).lineRst_eq fun b hb => ?_).trans hu
    exact rst_not_mem_program b _ hi (hb ▸ hp)
  · intro d hd
    exact hn d (by simpa using hd)
  · simp
  · simp

/-- Settles O34: the line by the primitives of each pseudocode, the receiver by what a panel reset draws. -/
theorem onlyInitDrivesPanelReset : Obligations.OnlyInitDrivesPanelReset :=
  ⟨fun _ _ _ hi hn h => exec_lineRst hi hn h,
    fun s => ⟨s.rx.panelReset, rfl, rfl, rfl, rfl, fun _ _ => Memory.read_nil _ _⟩, fun _ => rfl⟩

end Sys2Proof.Machine

/-! PROOF. The machine's invariant (10_state.md R28, R31, R37; 20_memory.md R71; 60_exceptions.md R210, R212): every
operation of the model keeps its part of it, the reset states meet it, and so every step keeps it. -/

namespace Sys2Proof.Machine

/-! ### The extractor (10_state.md R37) -/

/-- Two places of the ring that are less than `k` apart are different ones. -/
theorem ring_inj {h a b k : Nat} (ha : a < k) (hb : b < k) (he : (h + a) % k = (h + b) % k) : a = b := by
  have hm : a % k = b % k := Nat.ModEq.add_left_cancel' h he
  rwa [Nat.mod_eq_of_lt ha, Nat.mod_eq_of_lt hb] at hm

@[simp] theorem Extractor.afterReset_buf_length (k : Nat) (entries : List Sample) :
    (Extractor.afterReset k entries).buf.length = k := by
  simp [Extractor.afterReset]

theorem ExtractorInv.afterReset {k : Nat} (hk : 1 ≤ k) (entries : List Sample) :
    ExtractorInv k (Extractor.afterReset k entries) := by
  exact ⟨Extractor.afterReset_buf_length k entries, Nat.zero_le k, hk, hk, (Nat.zero_mod k).symm, Nat.zero_le 2,
    Nat.one_pos, fun j hj => absurd hj (Nat.not_lt_zero j)⟩

/-- `BufWrite` at the tail of a ring with room leaves the unconsumed samples, and puts its own behind them
(41_entropy.md R161 step 4). -/
theorem ExtractorInv.bufRead_push {k : Nat} {e : Extractor} (h : ExtractorInv k e) (room : e.avail < k) (v : Sample)
    {j : Nat} (hj : j ≤ e.avail) :
    (e.bufWrite e.tail v).bufRead ((e.head + j) % k) = if j = e.avail then v else e.bufRead ((e.head + j) % k) := by
  obtain ⟨hlen, -, -, htail, hring, -⟩ := h
  rw [Extractor.bufRead_bufWrite e _ _ v (by omega), hring]
  have hiff : (e.head + j) % k = (e.head + e.avail) % k ↔ j = e.avail :=
    ⟨ring_inj (by omega) room, fun hje => by rw [hje]⟩
  simp only [hiff]

theorem ExtractorInv.addBit {k : Nat} {e : Extractor} (h : ExtractorInv k e) (b : Bool) :
    ExtractorInv k (e.addBit k b) := by
  have hinv := h
  obtain ⟨hlen, havail, hhead, htail, hring, hbits, hcand, hle⟩ := h
  rcases Extractor.addBit_cases k b e with ⟨-, he⟩ | ⟨-, hn, he⟩ | ⟨hroom, -, hv, he⟩ | ⟨-, -, -, he⟩ <;> rw [he]
  · exact hinv
  · refine ⟨hlen, havail, hhead, htail, hring, Nat.le_of_lt_succ hn, ?_, hle⟩
    rw [shiftIn_toNat, Nat.pow_succ]
    have := b.toNat_le
    omega
  · refine ⟨by simpa using hlen, Nat.lt_of_le_of_ne havail hroom, hhead, Nat.mod_lt _ (by omega), ?_, Nat.zero_le 2,
      Nat.one_pos, fun j hj => ?_⟩
    · rw [hring, Nat.mod_add_mod, Nat.add_assoc]
    · have hj : j < e.avail + 1 := hj
      have hread := hinv.bufRead_push (by omega) (shiftIn e.cand b) (Nat.le_of_lt_succ hj)
      refine (congrArg BitVec.toNat hread).trans_le ?_
      split
      · omega
      · exact hle j (by omega)
  · exact ⟨hlen, havail, hhead, htail, hring, Nat.zero_le 2, Nat.one_pos, hle⟩

theorem ExtractorInv.pop {k : Nat} {e : Extractor} (h : ExtractorInv k e) (nonempty : 0 < e.avail) :
    ExtractorInv k (e.pop k) := by
  obtain ⟨hlen, havail, hhead, htail, hring, hbits, hcand, hle⟩ := h
  have shift (j : Nat) : ((e.head + 1) % k + j) % k = (e.head + (j + 1)) % k := by
    rw [Nat.mod_add_mod, Nat.add_assoc, Nat.add_comm 1 j]
  refine ⟨hlen, (Nat.sub_le _ _).trans havail, Nat.mod_lt _ (by omega), htail, ?_, hbits, hcand, fun j hj => ?_⟩
  · exact (shift (e.avail - 1) ▸ by rwa [Nat.sub_add_cancel nonempty])
  · have hj : j < e.avail - 1 := hj
    exact (shift j).symm ▸ hle (j + 1) (by omega)

/-! ### The receiver (20_memory.md R71) -/

theorem ReceiverInv.panelReset (r : Receiver) : ReceiverInv r.panelReset :=
  ⟨Nat.zero_le _, Nat.zero_le _, Memory.wf_panelReset r, r.panelReset_base_lt⟩

theorem ReceiverInv.command {r : Receiver} (h : ReceiverInv r) (c : Config) (b : Byte) :
    ReceiverInv (Receiver.command c b r) := by
  obtain ⟨-, -, hram, hbase⟩ := h
  rw [Receiver.command]
  split <;> exact ⟨Nat.zero_le _, Nat.zero_le _, hram, hbase⟩

@[simp] theorem Receiver.advance_args (c : Config) (r : Receiver) : (Receiver.advance c r).args = r.args := by
  unfold Receiver.advance Receiver.advanceRowMajor
  repeat' split
  all_goals rfl

@[simp] theorem Receiver.advance_pix (c : Config) (r : Receiver) : (Receiver.advance c r).pix = r.pix := by
  unfold Receiver.advance Receiver.advanceRowMajor
  repeat' split
  all_goals rfl

/-- A pixel write leaves the arguments and the incomplete pattern (20_memory.md R75). -/
theorem ReceiverInv.writePixel {r : Receiver} (h : ReceiverInv r) (c : Config) (p : Pixel) :
    ReceiverInv (Receiver.writePixel c p r) := by
  obtain ⟨hargs, hpix, hram, hbase⟩ := h
  refine ⟨?_, ?_, Receiver.writePixel_wf c p r hram, Receiver.writePixel_base_lt c p r hbase⟩
  · rw [Receiver.writePixel]; split <;> simpa [Receiver.freeRam] using hargs
  · rw [Receiver.writePixel]; split <;> simpa [Receiver.freeRam] using hpix

theorem ReceiverInv.pixelData {r : Receiver} (h : ReceiverInv r) (c : Config) (d : Byte) :
    ReceiverInv (Receiver.pixelData c d r) := by
  have hinv := h
  obtain ⟨hargs, hpix, hram, hbase⟩ := h
  rw [Receiver.pixelData]
  split
  · have hstart : ReceiverInv { r with pix := [] } := ⟨hargs, Nat.zero_le _, hram, hbase⟩
    exact (hstart.writePixel c _).writePixel c _
  next hshort =>
    have hne : (r.pix ++ [d]).length ≠ 3 := fun h3 =>
      have ⟨b0, b1, b2, hb⟩ := List.length_eq_three.1 h3
      hshort b0 b1 b2 hb
    have hle : (r.pix ++ [d]).length ≤ 3 := by rw [List.length_append]; exact Nat.succ_le_succ hpix
    exact ⟨hargs, Nat.le_of_lt_succ (Nat.lt_of_le_of_ne hle hne), hram, hbase⟩

theorem ReceiverInv.setRange {r : Receiver} (h : ReceiverInv r) (c : Config) (b : Byte) :
    ReceiverInv (Receiver.setRange c b r) := by
  rw [Receiver.setRange]
  split
  · split <;> exact h
  · exact h

theorem ReceiverInv.addressData {r : Receiver} (h : ReceiverInv r) (c : Config) (b d : Byte) :
    ReceiverInv (Receiver.addressData c b d r) := by
  obtain ⟨hargs, hpix, hram, hbase⟩ := h
  rw [Receiver.addressData]
  split
  next hroom =>
    have hadd : ReceiverInv { r with args := r.args ++ [d] } :=
      ⟨by rw [List.length_append]; exact hroom, hpix, hram, hbase⟩
    exact hadd.setRange c b
  next => exact ⟨hargs, hpix, hram, hbase⟩

theorem ReceiverInv.data {r : Receiver} (h : ReceiverInv r) (c : Config) (d : Byte) :
    ReceiverInv (Receiver.data c d r) := by
  rw [Receiver.data]
  split
  · exact h
  · split
    · exact h.addressData c _ d
    · split
      · exact h.pixelData c d
      · exact h

theorem ReceiverInv.receive {r : Receiver} (h : ReceiverInv r) (c : Config) (isCommand : Bool) (v : Byte) :
    ReceiverInv (Receiver.receive c isCommand v r) := by
  rw [Receiver.receive]
  split
  · exact h.command c v
  · exact h.data c v

theorem ReceiverInv.emit {s : State} (h : ReceiverInv s.rx) (e : BusEvent) : ReceiverInv (s.emit e).rx := by
  cases e with
  | tx v =>
    rw [State.emit_tx_rx]
    split
    · exact h.receive _ _ v
    · exact h
  | rst b =>
    rw [State.emit_rst_rx]
    split
    · exact .panelReset _
    · exact h
  | _ => exact h

/-! ### The payload buffer (10_state.md R28) -/

theorem PayloadInv.loadPayload {s : State} (h : PayloadInv s) {p : List Byte} (hp : p.length ≤ s.cfg.payloadMax) :
    PayloadInv (s.loadPayload p) :=
  ⟨hp, (loadBytes_length_le p s.plBuf).trans (max_le hp h.2.1), trimBytes_loadBytes p s.plBuf⟩

theorem PayloadInv.begin {s : State} (h : PayloadInv s) {i : Instr} (fits : (payloadOf i).length ≤ s.cfg.payloadMax) :
    PayloadInv (s.begin i) := by
  cases i with
  | sendData p r => exact h.loadPayload fits
  | writePixels p r => exact h.loadPayload fits
  | _ => exact h

theorem PayloadInv.resetWith (c : Config) (d : ResetDraw) : PayloadInv (State.resetWith c d) :=
  ⟨Nat.zero_le _, (trimBytes_length_le _).trans (List.length_take_le _ _), trimBytes_idem _⟩

/-! ### STATUS and FAULT (60_exceptions.md R210, R212) -/

@[simp] theorem respStatus_faultResponse (f : FaultCode) : respStatus (faultResponse f) = f.code := by
  cases f <;> rfl

@[simp] theorem respStatus_okResponse (valid : Bool) (value : Byte) : respStatus (okResponse valid value) = 0 := by
  rw [respStatus, okResponse]
  exact (BitVec.extractLsb'_append_eq_of_le (by decide)).trans (by cases valid <;> rfl)

/-- A block without a fault may be anywhere in a request. -/
theorem FaultInv.of_unfaulted {s : State} (hf : s.fault = .none) (hr : respStatus s.resp = FaultCode.none.code) :
    FaultInv s :=
  ⟨by rw [hf, hr], fun hn => absurd hf hn⟩

/-- A request is in progress, or taken, only without a fault (60_exceptions.md R213). -/
theorem FaultInv.unfaulted_of_busy {s : State} (h : FaultInv s) (hb : s.seq ≠ .idle) : s.fault = .none :=
  Decidable.byContradiction fun hf => hb (h.2 hf)

/-! ### The reset states (10_state.md R45) -/

/-- Settles O14: each value is the reset state's own, and the extractor's buffer has `K` entries whatever the draw. -/
theorem resetLeavesTheSpecsValues : Obligations.ResetLeavesTheSpecsValues := fun c d =>
  ⟨⟨rfl, rfl, rfl, rfl, rfl, rfl, rfl, rfl, rfl, Extractor.afterReset_buf_length c.k d.exBuf, rfl, rfl, rfl, rfl, rfl,
    rfl, rfl, rfl, rfl, rfl⟩, rfl, rfl⟩

/-- Settles O55: fairness and the lines are the reset state's own values. -/
theorem resetIsFairAndQuiescent : Obligations.ResetIsFairAndQuiescent := fun _ _ => ⟨⟨rfl, rfl⟩, rfl, rfl⟩

theorem Config.one_le_k_of_wf {c : Config} (h : c.wf = true) : 1 ≤ c.k := by
  simp only [Config.wf, Bool.and_eq_true, decide_eq_true_eq] at h
  omega

/-- Settles O53: part by part. -/
theorem resetMeetsTheMachineInvariant : Obligations.ResetMeetsTheMachineInvariant := fun c d hc =>
  ⟨hc, .afterReset (Config.one_le_k_of_wf hc) d.exBuf, .resetWith c d,
    ⟨Nat.zero_le 4, Nat.zero_le 2, Memory.wf_afterReset d, Nat.one_pos⟩, .of_unfaulted rfl (respStatus_okResponse false 0)⟩

/-! ### Every step keeps the invariant -/

section
variable {s t : State}

theorem MachineInv.advance (h : MachineInv s) : MachineInv s.advance := by
  obtain ⟨hc, he, hp, hr, hs, hi⟩ := h
  exact ⟨hc, he, hp, hr, hs, fun hf => by rw [State.advance_seq, hi hf]; rfl⟩

theorem MachineInv.raise (h : MachineInv s) (f : FaultCode) : MachineInv (s.raise f) := by
  obtain ⟨hc, he, hp, hr, -⟩ := h
  exact ⟨hc, he, hp, hr, respStatus_faultResponse f, fun _ => rfl⟩

theorem MachineInv.respond (h : MachineInv s) (hf : s.fault = .none) (v : Bool) (b : Byte) :
    MachineInv (s.respond v b) := by
  obtain ⟨hc, he, hp, hr, -⟩ := h
  exact ⟨hc, he, hp, hr, .of_unfaulted hf (respStatus_okResponse v b)⟩

theorem MachineInv.emit (h : MachineInv s) (e : BusEvent) : MachineInv (s.emit e) := by
  obtain ⟨hc, he, hp, hr, hs⟩ := h
  refine ⟨?_, ?_, ?_, hr.emit e, ?_⟩
  · simpa using hc
  · simpa using he
  · simpa [PayloadInv] using hp
  · simpa [FaultInv] using hs

theorem MachineInv.begin (h : MachineInv s) (hf : s.fault = .none) {i : Instr}
    (fits : (payloadOf i).length ≤ s.cfg.payloadMax) : MachineInv (s.begin i) := by
  obtain ⟨hc, he, hp, hr, hs, -⟩ := h
  refine ⟨?_, ?_, hp.begin fits, ?_, .of_unfaulted ?_ ?_⟩
  · simpa using hc
  · simpa using he
  · simpa using hr
  · simpa using hf
  · simpa [hf] using hs

theorem MachineInv.with_ex (h : MachineInv s) {e : Extractor} (he : ExtractorInv s.cfg.k e) :
    MachineInv { s with ex := e } :=
  ⟨h.1, he, h.2.2⟩

/-- Block reset draws pixels anew, of a draw that it counts (20_memory.md R80). -/
theorem MachineInv.blockReset (h : MachineInv s) (d : ResetDraw) : MachineInv (s.blockReset d) := by
  obtain ⟨hc, he, hp, ⟨hargs, hpix, hram, -⟩, hf⟩ := resetMeetsTheMachineInvariant s.cfg d h.1
  exact ⟨hc, he, hp, ⟨hargs, hpix, hram, Nat.lt_succ_self _⟩, hf⟩

/-- The invariant is about the block's side alone. -/
theorem MachineInv.sameBlock (h : MachineInv s) (same : SameBlock s t) : MachineInv t :=
  (same.view_eq MachineInv fun _ _ => rfl).symm ▸ h

theorem PrimStep.machineInv {p : Prim} (hstep : PrimStep p s t) (h : MachineInv s) (busy : s.seq ≠ .idle) :
    MachineInv t := by
  have hinv := h
  obtain ⟨hc, he, hp, hr, hf⟩ := h
  have unfaulted : s.fault = .none := hf.unfaulted_of_busy busy
  cases hstep with
  | advance => exact hinv.advance
  | raise f => exact hinv.raise f
  | emit e own => exact (hinv.emit e).advance
  | setReady => exact MachineInv.advance ⟨hc, he, hp, hr, hf⟩
  | respond v b => exact hinv.respond unfaulted v b
  | addBit b => exact (hinv.with_ex (he.addBit b)).respond unfaulted _ _
  | pop v nonempty => exact (hinv.with_ex (he.pop nonempty)).respond unfaulted _ v
  | readNoise ch =>
    refine MachineInv.advance ⟨hc, he, hp, hr, .of_unfaulted unfaulted ?_⟩
    simpa [unfaulted] using hf.1

theorem AgentStep.machineInv (hstep : AgentStep s t) (h : MachineInv s) : MachineInv t := by
  cases hstep with
  | others same sub => exact h.sameBlock same
  | @reset d ms due =>
    have henv : MachineInv { s with env := ms } := h.sameBlock ⟨s.chBusy, rfl⟩
    exact henv.blockReset d
  | perform busy => exact (PrimStep.of_perform _ s).machineInv h busy
  | @refuse rs =>
    have hport : MachineInv { s with port := rs } := h.sameBlock ⟨s.chBusy, rfl⟩
    exact hport.raise _
  | @accept i rs unfaulted fits =>
    have hport : MachineInv { s with port := rs } := h.sameBlock ⟨s.chBusy, rfl⟩
    exact hport.begin unfaulted fits

end

/-- Settles O52: every finest step of an agent keeps the invariant, and a step is a path of them. -/
theorem everyStepKeepsTheMachineInvariant : Obligations.EveryStepKeepsTheMachineInvariant := fun _ _ h hs =>
  step_keeps (fun _ _ ha => ha.machineInv) h hs

end Sys2Proof.Machine

/-! PROOF. Under both fairness assumptions every step ends between requests (20_memory.md R64, R66; 40_framer.md R120):
each request's pseudocode ends with the controller deselected, and an await ends, by its condition or by block reset. -/

namespace Sys2Proof.Machine

/-! ### Pseudocode that ends with the controller deselected -/

/-- Wherever a run of the primitives can end its request, by a response or a fault, LINE_CS is false, when it starts
from LINE_CS at `cs`; and it does end it. -/
def EndsDeselected : Bool → List Prim → Prop
  | _, []       => False
  | cs, p :: ps =>
    match p with
    | .emit (.cs b) => EndsDeselected b ps
    | .emit _ | .wait | .setReady | .readNoise _ => EndsDeselected cs ps
    | .checkReady | .checkUninit | .checkWindow _ _ _ _ => cs = false ∧ EndsDeselected false ps
    | .respond _ _ | .addBit _ | .addLocalBit | .takeNext | .readAvailable | .readCapacity => cs = false

/-- `cmd(c)` lowers the select line at its end (40_framer.md R122). -/
theorem endsDeselected_cmd (c : Byte) {ps : List Prim} (h : EndsDeselected false ps) :
    EndsDeselected false (cmd c ++ ps) := h

/-- `data(L, r)` lowers the select line after every byte (40_framer.md R124). -/
theorem endsDeselected_data (bytes : List Byte) (r : Nat) {ps : List Prim} (h : EndsDeselected false ps) :
    EndsDeselected false (data bytes r ++ ps) := by
  have after_bytes (bs : List Byte) : EndsDeselected false (bs.flatMap dataByte ++ ps) := by
    induction bs with
    | nil => exact h
    | cons b bs ih => exact ih
  rw [data, repetitions_eq]
  exact after_bytes _

/-- The pseudocode of each of the eleven requests (40_framer.md, 41_entropy.md). -/
theorem program_endsDeselected (s : State) (i : Instr) : EndsDeselected false (s.program i) := by
  have responds : EndsDeselected false [.respond false 0] := rfl
  cases i with
  | sendCmd b => exact ⟨rfl, endsDeselected_cmd b responds⟩
  | sendData p r => exact ⟨rfl, endsDeselected_data _ _ responds⟩
  | setWindow x y w h =>
    rw [State.program, progSetWindow]
    simp only [List.append_assoc]
    exact ⟨rfl, rfl, endsDeselected_cmd _ (endsDeselected_data _ _
      (endsDeselected_cmd _ (endsDeselected_data _ _ responds)))⟩
  | writePixels p r =>
    rw [State.program, progWritePixels, List.append_assoc]
    exact ⟨rfl, endsDeselected_cmd _ (endsDeselected_data _ _ responds)⟩
  | init =>
    rw [State.program, progInit]
    simp only [List.append_assoc]
    exact ⟨rfl, endsDeselected_cmd s.cfg.cmdSlpout (endsDeselected_cmd s.cfg.cmdColmod (endsDeselected_data _ _
      (endsDeselected_cmd s.cfg.cmdMadctl (endsDeselected_data _ _ responds))))⟩
  | displayOn => exact ⟨rfl, endsDeselected_cmd s.cfg.cmdDispon responds⟩
  | exAddNoise two a b => cases two <;> rfl
  | _ => rfl

section
variable {p : Prim} {ps : List Prim} {s t : State}

/-- One primitive ends the request with the controller deselected, or leaves pseudocode that will. -/
theorem EndsDeselected.perform (h : EndsDeselected s.lineCs (p :: ps)) (hb : s.seq.isIdle = false) :
    ((s.perform p).seq = .idle ∧ (s.perform p).lineCs = false) ∨
    ((s.perform p).seq.isIdle = false ∧ EndsDeselected (s.perform p).lineCs ps) := by
  have goes_on : s.advance.seq.isIdle = false := by simpa using hb
  cases p with
  | checkReady =>
    rw [State.perform]
    split
    exacts [.inl ⟨rfl, h.1⟩, .inr ⟨goes_on, h.1.symm ▸ h.2⟩]
  | checkUninit =>
    rw [State.perform]
    split
    exacts [.inl ⟨rfl, h.1⟩, .inr ⟨goes_on, h.1.symm ▸ h.2⟩]
  | checkWindow x y w h' =>
    rw [State.perform]
    split
    exacts [.inr ⟨goes_on, h.1.symm ▸ h.2⟩, .inl ⟨rfl, h.1⟩]
  | emit e => exact .inr ⟨by simpa [State.perform] using hb, by cases e <;> exact h⟩
  | wait => exact .inr ⟨goes_on, h⟩
  | setReady => exact .inr ⟨goes_on, h⟩
  | readNoise ch => exact .inr ⟨by simpa [State.perform] using hb, h⟩
  | takeNext => rw [State.perform, State.takeNext]; split; exacts [.inl ⟨rfl, h⟩, .inl ⟨rfl, h⟩]
  | _ => exact .inl ⟨rfl, h⟩

/-! ### Fairness -/

theorem Fair.sameBlock (h : Fair s) (same : SameBlock s t) : Fair t :=
  (same.view_eq Fair fun _ _ => rfl).symm ▸ h

theorem PrimStep.fair (h : PrimStep p s t) (hf : Fair s) : Fair t := by
  cases h with
  | emit e => simpa [Fair] using hf
  | _ => exact hf

/-- A fair agent takes the step that is awaited (60_exceptions.md R225, R227). -/
theorem Fair.grant_ne_none (h : Fair s) (he : s.enabled p = false) : s.grant p ≠ none := by
  cases p with
  | wait => simp [State.grant, h.1]
  | readNoise ch => simp [State.grant, h.2]
  | _ => cases he

/-- In a fair run a request's pseudocode ends, unless block reset comes, and either way between requests. -/
theorem Fair.run_quiescent (hf : Fair s) (hb : s.seq.isIdle = false) (h : EndsDeselected s.lineCs ps) :
    Fair (s.run ps) ∧ Quiescent (s.run ps) := by
  induction ps generalizing s with
  | nil => exact absurd h id
  | cons p ps ih =>
    rw [State.run]
    rcases State.awaitFor_cases p s.env s rfl with
      ⟨t, ha, -, same, -⟩ | ⟨t, -, he, hg, -, same⟩ | ⟨t, ha, -, hidle | ⟨u, d, same, rfl, -⟩⟩
    · rw [ha]
      dsimp only
      have hft := (PrimStep.of_perform p t).fair (hf.sameBlock same)
      have hcs : EndsDeselected t.lineCs (p :: ps) := (same.view_eq State.lineCs fun _ _ => rfl).symm ▸ h
      have hbt : t.seq.isIdle = false := (same.view_eq State.seq fun _ _ => rfl).symm ▸ hb
      rcases hcs.perform hbt with ⟨hidle, hlow⟩ | ⟨hbusy, hrest⟩
      · rw [if_pos (by rw [hidle]; rfl)]
        exact ⟨hft, hidle, hlow⟩
      · rw [if_neg (by simp [hbusy])]
        exact ih hft hbusy hrest
    · exact absurd hg ((hf.sameBlock same).grant_ne_none he)
    · simp [hidle] at hb
    · rw [ha]
      have hu : Fair u := hf.sameBlock same
      exact ⟨hu, rfl, rfl⟩

theorem Fair.exec_quiescent (hf : Fair s) (hq : Quiescent s) {i : Instr} (h : exec i s = .next t) :
    Fair t ∧ Quiescent t := by
  rw [exec_eq_run] at h
  cases h
  refine Fair.run_quiescent ?_ (by simp) ?_
  · simpa [Fair] using hf
  · rw [State.begin_lineCs, hq.2]
    exact program_endsDeselected _ i

theorem Fair.acceptRequest_quiescent (hf : Fair s) (hq : Quiescent s) {r : Request} (h : s.acceptRequest r = .next t) :
    Fair t ∧ Quiescent t := by
  rw [State.acceptRequest] at h
  split at h
  next => cases h; exact ⟨hf, rfl, hq.2⟩
  next => exact hf.exec_quiescent hq h

/-- A move of another agent leaves the block between requests, block reset among them (70_reset_and_hazards.md R240). -/
theorem Fair.move_quiescent (hf : Fair s) (hq : Quiescent s) (m : EnvMove) :
    Fair (s.move m) ∧ Quiescent (s.move m) := by
  cases m with
  | reset d => exact ⟨hf, rfl, rfl⟩
  | _ => exact ⟨hf, hq⟩

theorem Fair.idleMove_quiescent (hf : Fair s) (hq : Quiescent s) (h : s.idleMove = .next t) :
    Fair t ∧ Quiescent t := by
  rw [State.idleMove] at h
  split at h
  next m ms _ => cases h; exact Fair.move_quiescent (s := { s with env := ms }) hf hq m
  next =>
    split at h
    · cases h; exact ⟨hf, hq⟩
    · cases h

end

/-- Settles O54: an idle block's step is a request run to its end, a refused one, or a move of another agent. -/
theorem fairStepsEndQuiescent : Obligations.FairStepsEndQuiescent := by
  intro s t hf hq h
  rw [step_of_idle (port := s.port) hq.1, State.idleStep] at h
  split at h
  · split at h
    next r rs _ => exact Fair.acceptRequest_quiescent (s := { s with port := rs }) hf hq h
    next => exact hf.idleMove_quiescent hq h
  · exact hf.idleMove_quiescent hq h

end Sys2Proof.Machine

/-! PROOF. The request port, the bus events and the controller's items, each read off the model's definition
(20_memory.md R58-R64, R72, R78; 30_encoding.md R99). -/

namespace Sys2Proof

theorem bytesToNat_append_singleton (bs : List Byte) (b : Byte) :
    bytesToNat (bs ++ [b]) = bytesToNat bs * 256 + b.toNat := by
  simp [bytesToNat]

@[simp] theorem lowBytes_length (n v : Nat) : (lowBytes n v).length = n := by
  induction n generalizing v with
  | zero => rfl
  | succ n ih => rw [lowBytes, List.length_cons, ih]

/-- The `n` low bytes, most significant first, are the number's base-256 digits. -/
theorem bytesToNat_reverse_lowBytes (n v : Nat) : bytesToNat (lowBytes n v).reverse = v % 256 ^ n := by
  induction n generalizing v with
  | zero => rw [Nat.pow_zero, Nat.mod_one]; rfl
  | succ n ih =>
    calc bytesToNat (lowBytes (n + 1) v).reverse
        = v / 256 % 256 ^ n * 256 + v % 256 := by
          rw [lowBytes, List.reverse_cons, bytesToNat_append_singleton, ih, BitVec.toNat_ofNat]
      _ = v % (256 * 256 ^ n) := by rw [Nat.mod_mul, Nat.mul_comm, Nat.add_comm]
      _ = v % 256 ^ (n + 1) := by rw [Nat.pow_succ']

/-- Settles O4: the first eight bytes are the word's base-256 digits, the rest is the payload. -/
theorem byteDeliveryRoundTrip : Obligations.ByteDeliveryRoundTrip := by
  intro r
  have hword : BitVec.ofNat 64 (bytesToNat (lowBytes 8 r.word.toNat).reverse) = r.word := by
    rw [bytesToNat_reverse_lowBytes]
    exact BitVec.eq_of_toNat_eq (by rw [BitVec.toNat_ofNat]; omega)
  have hlen : (lowBytes 8 r.word.toNat).reverse.length = 8 := by simp
  rw [requestOfBytes, bytesOfRequest, List.take_left' hlen, List.drop_left' hlen, hword, if_neg (by simp)]

end Sys2Proof

namespace Sys2Proof.Machine

/-- Settles O9: the port of an idle unfaulted block is open, and a request that decodes runs its meaning. -/
theorem stepRunsTheDecodedRequest : Obligations.StepRunsTheDecodedRequest := by
  intro s r rs i hq hf hr hp hd
  have hopen : s.portOpen = true := by simp [State.portOpen, hf, hr]
  rw [step_of_idle (port := s.port) hq, State.idleStep, if_pos hopen, hp]
  simp only [State.acceptRequest, hd]

/-- Settles O20: by the effect of each event. -/
theorem lineEventsWriteOnlyTheirLine : Obligations.LineEventsWriteOnlyTheirLine := fun _ =>
  ⟨fun _ => rfl, fun _ => rfl, fun _ => rfl, rfl⟩

/-- Settles O21: by the select line, then the mode line. -/
theorem txReachesTheSelectedController : Obligations.TxReachesTheSelectedController := by
  intro s v
  refine ⟨fun hcs => ?_, fun hcs hcmd => ?_, fun hcs hcmd => ?_⟩
  · simp [State.emit, State.applyEvent, hcs]
  · simp [State.emit, State.applyEvent, Receiver.receive, hcs, hcmd]
  · simp [State.emit, State.applyEvent, Receiver.receive, hcs, hcmd]

theorem Receiver.command_ramwr (c : Config) (r : Receiver) :
    Receiver.command c c.cmdRamwr r =
      { r with cmd := some c.cmdRamwr, args := [], pix := [], cx := r.xs, cy := r.ys } :=
  if_pos rfl

theorem Receiver.command_of_ne {c : Config} {b : Byte} (hb : b ≠ c.cmdRamwr) (r : Receiver) :
    Receiver.command c b r = { r with cmd := some b, args := [], pix := [] } :=
  if_neg hb

/-- Settles O38: the memory-write command and every other one. -/
theorem commandsMoveOnlyTheWritePointer : Obligations.CommandsMoveOnlyTheWritePointer := fun c r _ =>
  ⟨fun hb => hb ▸ r.command_ramwr c, fun hb => Receiver.command_of_ne hb r⟩

/-- A data item after no command, or after none of the three that take data (20_memory.md R78). -/
theorem Receiver.data_of_other {c : Config} {r : Receiver} (d : Byte)
    (h : ∀ b, r.cmd = some b → b ≠ c.cmdCaset ∧ b ≠ c.cmdRaset ∧ b ≠ c.cmdRamwr) : Receiver.data c d r = r := by
  rw [Receiver.data]
  split
  next => rfl
  next b hb =>
    obtain ⟨hcaset, hraset, hramwr⟩ := h b hb
    rw [if_neg (by simp [hcaset, hraset]), if_neg hramwr]

/-- Settles O39: data by the command that stands before it, and the command by its byte. -/
theorem otherDataIsIgnored : Obligations.OtherDataIsIgnored := fun _ r d =>
  ⟨fun h => Receiver.data_of_other d h, fun _ hb => Receiver.command_of_ne hb r⟩

end Sys2Proof.Machine

/-! PROOF. Where pixels land (20_memory.md R75-R77): one pixel write in the default scan and wrap, and one in an empty
window. -/

namespace Sys2Proof.Machine

/-- Two cells have one key only when they are one cell. -/
theorem cellKey_inj {col row col' row' : Nat} (hc : col < 65536) (hc' : col' < 65536) :
    cellKey col row = cellKey col' row' ↔ col = col' ∧ row = row' := by
  simp only [cellKey]
  omega

/-! ### What a pixel write leaves -/

@[simp] theorem Receiver.advance_cmd (c : Config) (r : Receiver) : (Receiver.advance c r).cmd = r.cmd := by
  unfold Receiver.advance Receiver.advanceRowMajor
  repeat' split
  all_goals rfl

/-- The pointer's movement does not touch the window. -/
theorem Receiver.advance_window (c : Config) (r : Receiver) : (Receiver.advance c r).xs = r.xs ∧
    (Receiver.advance c r).xe = r.xe ∧ (Receiver.advance c r).ys = r.ys ∧ (Receiver.advance c r).ye = r.ye := by
  unfold Receiver.advance Receiver.advanceRowMajor
  repeat' split
  all_goals exact ⟨rfl, rfl, rfl, rfl⟩

@[simp] theorem Receiver.advance_windowEmpty (c : Config) (r : Receiver) :
    (Receiver.advance c r).windowEmpty = r.windowEmpty := by
  obtain ⟨hxs, hxe, hys, hye⟩ := r.advance_window c
  simp only [Receiver.windowEmpty, hxs, hxe, hys, hye]

section
variable (c : Config) (p : Pixel) (r : Receiver)

@[simp] theorem Receiver.writePixel_cmd : (Receiver.writePixel c p r).cmd = r.cmd := by
  rw [Receiver.writePixel]
  split <;> simp [Receiver.freeRam]

@[simp] theorem Receiver.writePixel_pix : (Receiver.writePixel c p r).pix = r.pix := by
  rw [Receiver.writePixel]
  split <;> simp [Receiver.freeRam]

@[simp] theorem Receiver.writePixel_windowEmpty : (Receiver.writePixel c p r).windowEmpty = r.windowEmpty := by
  rw [Receiver.writePixel]
  split <;> exact Receiver.advance_windowEmpty c _

theorem Receiver.writePixel_draws_le : r.draws ≤ (Receiver.writePixel c p r).draws := by
  rw [Receiver.writePixel]
  split
  · exact (Nat.le_succ _).trans (Receiver.advance_draws_le c r.freeRam)
  · exact Receiver.advance_draws_le c { r with ram := r.ram.write (cellKey r.cx.toNat r.cy.toNat) p }

end

/-- A pixel write into an empty window leaves a free value, newly drawn, in every cell (20_memory.md R77). -/
theorem Receiver.writePixel_pixelAt_of_empty {r : Receiver} (h : r.windowEmpty = true) (c : Config) (p : Pixel)
    (col row : Nat) : (Receiver.writePixel c p r).pixelAt col row = Config.freePixel r.draws (cellKey col row) := by
  rw [Receiver.pixelAt, Receiver.writePixel_ram, Receiver.writePixel_base, if_pos h, if_pos h, Memory.read_nil]

/-- The third data byte of a pattern after the memory-write command (20_memory.md R75). -/
theorem Receiver.data_third_byte {c : Config} {r : Receiver} {b0 b1 : Byte} (hcmd : r.cmd = some c.cmdRamwr)
    (hcaset : c.cmdRamwr ≠ c.cmdCaset) (hraset : c.cmdRamwr ≠ c.cmdRaset) (hpix : r.pix = [b0, b1]) (b2 : Byte) :
    Receiver.data c b2 r =
      Receiver.writePixel c (secondPixel b1 b2) (Receiver.writePixel c (firstPixel b0 b1) { r with pix := [] }) := by
  simp [Receiver.data, Receiver.pixelData, hcmd, hcaset, hraset, hpix]

/-! ### Writing in row-major order -/

/-- The place that the pointer goes to in row-major order: the next column, or the first column of the next row, or the
window's start (20_memory.md R76). -/
def Receiver.nextPlace (r : Receiver) : Nat × Nat :=
  if r.ye.toNat < r.stepped.2 then (r.stepped.1, r.ys.toNat) else r.stepped

theorem Receiver.nextPlace_lt (r : Receiver) : r.nextPlace.1 < 65536 ∧ r.nextPlace.2 < 65536 := by
  simp only [Receiver.nextPlace, Receiver.stepped]
  split_ifs <;> constructor <;> dsimp only <;> omega

/-- `advance()` with the default scan and wrap goes to the next place. -/
theorem Receiver.advanceRowMajor_toStart (r : Receiver) : Receiver.advanceRowMajor .toStart r =
    { r with cx := BitVec.ofNat 16 r.nextPlace.1, cy := BitVec.ofNat 16 r.nextPlace.2 } := by
  by_cases hend : r.ye.toNat < r.stepped.2
  · simp [Receiver.advanceRowMajor, Receiver.nextPlace, hend]
  · simp [Receiver.advanceRowMajor, Receiver.nextPlace, hend]

/-- Pixel writes fill a window in order: the default scan and wrap, a window with a pixel, and a memory in canonical
form. -/
structure Receiver.InOrder (c : Config) (r : Receiver) : Prop where
  scan      : c.rxScan = .rowMajor
  wrap      : c.rxWrap = .toStart
  cols      : r.xs.toNat ≤ r.xe.toNat
  rows      : r.ys.toNat ≤ r.ye.toNat
  canonical : Memory.wf r.ram = true

section
variable {c : Config} {r : Receiver}

/-- A pixel write in order: the pixel at the pointer, and the pointer goes to its next place (20_memory.md R75, R76). -/
theorem Receiver.InOrder.writePixel_eq (h : r.InOrder c) (p : Pixel) : Receiver.writePixel c p r =
    { r with
      ram := Memory.write r.ram (cellKey r.cx.toNat r.cy.toNat) p
      cx  := BitVec.ofNat 16 r.nextPlace.1
      cy  := BitVec.ofNat 16 r.nextPlace.2 } := by
  have hne : r.windowEmpty = false := by
    have hcols := h.cols
    have hrows := h.rows
    simp only [Receiver.windowEmpty, Bool.or_eq_false_iff, decide_eq_false_iff_not, BitVec.lt_def]
    omega
  rw [Receiver.writePixel, hne, if_neg Bool.false_ne_true, Receiver.advance, h.scan, h.wrap,
    Receiver.advanceRowMajor_toStart]
  rfl

theorem Receiver.InOrder.writePixel (h : r.InOrder c) (p : Pixel) : (Receiver.writePixel c p r).InOrder c where
  scan      := h.scan
  wrap      := h.wrap
  cols      := by rw [h.writePixel_eq]; exact h.cols
  rows      := by rw [h.writePixel_eq]; exact h.rows
  canonical := Receiver.writePixel_wf c p r h.canonical

theorem Receiver.InOrder.writePixel_pointer (h : r.InOrder c) (p : Pixel) :
    (Receiver.writePixel c p r).cx.toNat = r.nextPlace.1 ∧ (Receiver.writePixel c p r).cy.toNat = r.nextPlace.2 := by
  obtain ⟨hx, hy⟩ := r.nextPlace_lt
  rw [h.writePixel_eq]
  exact ⟨Nat.mod_eq_of_lt hx, Nat.mod_eq_of_lt hy⟩

/-- Read after a pixel write in order. -/
theorem Receiver.InOrder.writePixel_pixelAt (h : r.InOrder c) (p : Pixel) {col : Nat} (hcol : col < 65536) (row : Nat) :
    (Receiver.writePixel c p r).pixelAt col row =
      if col = r.cx.toNat ∧ row = r.cy.toNat then p else r.pixelAt col row := by
  rw [h.writePixel_eq, Receiver.pixelAt, Memory.read_write _ _ _ _ _ h.canonical]
  simp only [cellKey_inj hcol r.cx.isLt]
  rfl

end

/-! ### The third byte -/

theorem firstPixel_eq_of_toNat {b0 b1 : Byte} {p : Pixel} (h : p.toNat = b0.toNat * 16 + b1.toNat / 16) :
    firstPixel b0 b1 = p := by
  rw [firstPixel, ← h, BitVec.ofNat_toNat, BitVec.setWidth_eq]

theorem secondPixel_eq_of_toNat {b1 b2 : Byte} {p : Pixel} (h : p.toNat = b1.toNat % 16 * 256 + b2.toNat) :
    secondPixel b1 b2 = p := by
  rw [secondPixel, ← h, BitVec.ofNat_toNat, BitVec.setWidth_eq]

/-- Settles O40: two pixel writes in order, and two into an empty window. -/
theorem threeBytesWriteTwoPixels : Obligations.ThreeBytesWriteTwoPixels := by
  constructor
  · intro c r b0 b1 b2 row nx ny p1 p2 hscan hwrap hcmd hcaset hraset hpix hcols hrows hram hp1 hp2 hnx hrow hny
    have hq : ({ r with pix := [] } : Receiver).InOrder c := ⟨hscan, hwrap, hcols, hrows, hram⟩
    have hnext : ({ r with pix := [] } : Receiver).nextPlace = (nx, ny) := by
      change r.nextPlace = (nx, ny)
      rw [hny, hrow, hnx, Receiver.nextPlace, Receiver.stepped]
      by_cases hx : r.xe.toNat < r.cx.toNat + 1
      · simp only [if_pos hx]; split <;> rfl
      · simp only [if_neg hx]; split <;> rfl
    obtain ⟨hcx, hcy⟩ := hq.writePixel_pointer p1
    rw [Receiver.data_third_byte hcmd hcaset hraset hpix, firstPixel_eq_of_toNat hp1, secondPixel_eq_of_toNat hp2]
    obtain ⟨hnx, -⟩ := Receiver.nextPlace_lt { r with pix := [] }
    rw [hnext] at hcx hcy hnx
    have hread (col line : Nat) (hcol : col < 65536) : (Receiver.writePixel c p2
        (Receiver.writePixel c p1 { r with pix := [] })).pixelAt col line =
        if col = nx ∧ line = ny then p2
        else if col = r.cx.toNat ∧ line = r.cy.toNat then p1 else r.pixelAt col line := by
      rw [(hq.writePixel p1).writePixel_pixelAt p2 hcol, hq.writePixel_pixelAt p1 hcol, hcx, hcy]
      rfl
    refine ⟨by simp, ?_, fun hne => ?_, fun col line hcol _ hne1 hne2 => ?_⟩
    · rw [hread nx ny hnx, if_pos ⟨rfl, rfl⟩]
    · rw [hread _ _ r.cx.isLt, if_neg fun he => hne (Prod.ext he.1.symm he.2.symm), if_pos ⟨rfl, rfl⟩]
    · rw [hread col line hcol, if_neg fun he => hne2 (Prod.ext he.1 he.2), if_neg fun he => hne1 (Prod.ext he.1 he.2)]
  · intro c r b0 b1 b2 hcmd hcaset hraset hpix hwin
    rw [Receiver.data_third_byte hcmd hcaset hraset hpix]
    have hempty : ({ r with pix := [] } : Receiver).windowEmpty = true := by
      simpa [Receiver.windowEmpty, BitVec.lt_def] using hwin
    refine ⟨by simp, _, Receiver.writePixel_draws_le c (firstPixel b0 b1) { r with pix := [] }, fun col line => ?_⟩
    exact Receiver.writePixel_pixelAt_of_empty (by simpa using hempty) c _ col line

end Sys2Proof.Machine

/-! PROOF. What the controller holds after SET_WINDOW and WRITE_PIXELS (20_memory.md R73, R75; 40_framer.md R128-R133):
a framer request followed procedure by procedure to the receiver that it leaves. -/

namespace Sys2Proof.Machine

/-! ### A framer request on a fair channel -/

/-- `t` is reached by a framer request begun in `s`, `idle` or still in progress, with the receiver at `r`; what such a
request does not write is as in `s`, and no reset is scheduled. -/
structure FramerState (s : State) (idle : Bool) (r : Receiver) (t : State) : Prop where
  seq      : t.seq.isIdle = idle
  rx       : t.rx = r
  cfg      : t.cfg = s.cfg
  fault    : t.fault = s.fault
  frInit   : t.frInit = s.frInit
  chanFair : t.chanFair = s.chanFair
  noReset  : NoReset t

section
variable {s t u : State} {r r' : Receiver} {idle : Bool}

theorem Like.framerState (l : Like t u) (h : FramerState s idle r u) : FramerState s idle r t := by
  obtain ⟨hview, hn, -⟩ := l
  exact ⟨(congrArg (fun v => v.seq.isIdle) hview).trans h.seq, (congrArg State.rx hview).trans h.rx,
    (congrArg State.cfg hview).trans h.cfg, (congrArg State.fault hview).trans h.fault,
    (congrArg State.frInit hview).trans h.frInit, (congrArg State.chanFair hview).trans h.chanFair, hn⟩

theorem FramerState.begin (hn : NoReset s) (i : Instr) : FramerState s false s.rx (s.begin i) where
  seq      := by simp
  rx       := by simp
  cfg      := by simp
  fault    := by simp
  frInit   := by simp
  chanFair := by simp
  noReset  := fun d hd => hn d (by simpa using hd)

theorem FramerState.advance (h : FramerState s false r t) : FramerState s false r t.advance :=
  ⟨by simpa using h.seq, h.rx, h.cfg, h.fault, h.frInit, h.chanFair, h.noReset⟩

theorem FramerState.respond (h : FramerState s false r t) (v : Bool) (b : Byte) :
    FramerState s true r (t.respond v b) :=
  ⟨rfl, h.rx, h.cfg, h.fault, h.frInit, h.chanFair, h.noReset⟩

/-- The check passes in a ready block (40_framer.md R121). -/
theorem FramerState.run_checkReady (h : FramerState s false r t) (hr : s.frInit = .ready) (ps : List Prim) :
    t.run (.checkReady :: ps) = t.advance.run ps := by
  have hp : t.perform .checkReady = t.advance := if_neg (by rw [h.frInit, hr]; exact FrInit.noConfusion)
  rw [State.run_cons_more _ _ _ rfl (hp ▸ h.advance.seq), hp]

/-- The check passes for a good window (40_framer.md R129). -/
theorem FramerState.run_checkWindow (h : FramerState s false r t) {x y wd ht : Nat}
    (hw : windowOk s.cfg x y wd ht = true) (ps : List Prim) :
    t.run (.checkWindow x y wd ht :: ps) = t.advance.run ps := by
  have hp : t.perform (.checkWindow x y wd ht) = t.advance := if_pos (by rw [h.cfg]; exact hw)
  rw [State.run_cons_more _ _ _ rfl (hp ▸ h.advance.seq), hp]

/-- `cmd(c)` brings the controller the command (40_framer.md R122). -/
theorem FramerState.run_command (h : FramerState s false r t) (hf : s.chanFair = true) (c : Byte) (ps : List Prim) :
    ∃ t', t.run (cmd c ++ ps) = t'.run ps ∧ FramerState s false (Receiver.command s.cfg c r) t' := by
  obtain ⟨t', hrun, hlike⟩ := (Like.refl h.noReset).run_command c ps (h.chanFair.trans hf) h.seq
  refine ⟨t', hrun, hlike.framerState ⟨?_, ?_, h.cfg, h.fault, h.frInit, h.chanFair, h.noReset⟩⟩
  · simpa [State.afterCmd] using h.seq
  · rw [← h.cfg, ← h.rx]; rfl

/-- `data(L, r)` brings the controller its bytes (40_framer.md R124). -/
theorem FramerState.run_data (h : FramerState s false r t) (hf : s.chanFair = true) (bytes : List Byte) (n : Nat)
    (ps : List Prim) : ∃ t', t.run (data bytes n ++ ps) = t'.run ps ∧
      FramerState s false (Receiver.dataAll s.cfg (sentBytes bytes n) r) t' := by
  obtain ⟨t', hrun, hlike⟩ := (Like.refl h.noReset).run_data bytes n ps (h.chanFair.trans hf) h.seq
  obtain ⟨q, hq, hidle⟩ := State.afterData_eq bytes n t
  rw [hq] at hlike
  refine ⟨t', hrun, hlike.framerState ⟨hidle.trans h.seq, ?_, h.cfg, h.fault, h.frInit, h.chanFair, h.noReset⟩⟩
  rw [← h.cfg, ← h.rx]

end

/-- What the controller holds after WRITE_PIXELS in a ready block on a fair channel (40_framer.md R133). -/
theorem exec_writePixels_framerState {s : State} (hr : s.frInit = .ready) (hf : s.chanFair = true) (hn : NoReset s)
    (p : List Byte) (n : BitVec 32) : ∃ t, exec (.writePixels p n) s = .next t ∧
      FramerState s true
        (Receiver.dataAll s.cfg (sentBytes p n.toNat) (Receiver.command s.cfg s.cfg.cmdRamwr s.rx)) t := by
  have hprog : (s.begin (.writePixels p n)).program (.writePixels p n) =
      .checkReady :: (cmd s.cfg.cmdRamwr ++ (data p n.toNat ++ [.respond false 0])) := by
    have hp : (s.begin (.writePixels p n)).payload = p := frontBytes_loadBytes p s.plBuf
    simp [State.program, progWritePixels, hp]
  have h0 := FramerState.begin hn (.writePixels p n)
  obtain ⟨t1, e1, h1⟩ := h0.advance.run_command hf s.cfg.cmdRamwr (data p n.toNat ++ [.respond false 0])
  obtain ⟨t2, e2, h2⟩ := h1.run_data hf p n.toNat [.respond false 0]
  refine ⟨t2.respond false 0, ?_, h2.respond false 0⟩
  rw [exec_eq_run, hprog, h0.run_checkReady hr, e1, e2, State.run_respond]

/-! ### Windows -/

/-- A window on the panel with at least one pixel (40_framer.md R129). -/
theorem windowOk_iff (c : Config) (x y w h : Nat) :
    windowOk c x y w h = true ↔ 1 ≤ w ∧ 1 ≤ h ∧ x + w ≤ c.panelW ∧ y + h ≤ c.panelH := by
  simp only [windowOk, Bool.not_eq_true', Bool.or_eq_false_iff, beq_eq_false_iff_ne, decide_eq_false_iff_not]
  omega

theorem Config.margins_of_wf {c : Config} (h : c.wf = true) :
    c.marginX + c.panelW ≤ 65536 ∧ c.marginY + c.panelH ≤ 65536 := by
  simp only [Config.wf, Bool.and_eq_true, decide_eq_true_eq] at h
  omega

/-- A coordinate is read back from its two bytes (20_memory.md R63, R73). -/
theorem coordOf_hi8_lo8 (v : Nat) : coordOf (hi8 v) (lo8 v) = BitVec.ofNat 16 v := by
  refine BitVec.eq_of_toNat_eq ?_
  simp only [coordOf, hi8, lo8, BitVec.toNat_ofNat]
  omega

/-- The four data bytes after the column-set command (20_memory.md R73). -/
theorem Receiver.columnSet {c : Config} (hram : c.cmdRamwr ≠ c.cmdCaset) (first last : Nat) (r : Receiver) :
    Receiver.dataAll c (rangeBytes (first, last)) (Receiver.command c c.cmdCaset r) =
      { r with cmd := some c.cmdCaset, args := rangeBytes (first, last), pix := [],
               xs := BitVec.ofNat 16 first, xe := BitVec.ofNat 16 last } := by
  simp [Receiver.command_of_ne hram.symm, Receiver.dataAll, rangeBytes, Receiver.data, Receiver.addressData,
    Receiver.setRange, coordOf_hi8_lo8]

/-- The four data bytes after the row-set command (20_memory.md R73). -/
theorem Receiver.rowSet {c : Config} (hram : c.cmdRamwr ≠ c.cmdRaset) (hcol : c.cmdCaset ≠ c.cmdRaset)
    (first last : Nat) (r : Receiver) :
    Receiver.dataAll c (rangeBytes (first, last)) (Receiver.command c c.cmdRaset r) =
      { r with cmd := some c.cmdRaset, args := rangeBytes (first, last), pix := [],
               ys := BitVec.ofNat 16 first, ye := BitVec.ofNat 16 last } := by
  simp [Receiver.command_of_ne hram.symm, Receiver.dataAll, rangeBytes, Receiver.data, Receiver.addressData,
    Receiver.setRange, coordOf_hi8_lo8, hcol.symm]

/-- The receiver with a logical window in its registers, margins added (40_framer.md R130). -/
def Receiver.withWindow (c : Config) (x y w h : Nat) (r : Receiver) : Receiver :=
  { r with
    cmd  := some c.cmdRaset
    args := rangeBytes (wireRange c.marginY y h)
    pix  := []
    xs   := BitVec.ofNat 16 (wireRange c.marginX x w).1
    xe   := BitVec.ofNat 16 (wireRange c.marginX x w).2
    ys   := BitVec.ofNat 16 (wireRange c.marginY y h).1
    ye   := BitVec.ofNat 16 (wireRange c.marginY y h).2 }

/-- An address-set command and its four data bytes (40_framer.md R128). -/
def addressSet (c : Byte) (range : Nat × Nat) : List Prim := cmd c ++ data (rangeBytes range) 0

/-- SET_WINDOW's pseudocode: the checks, then the columns, then the rows (40_framer.md R128). -/
theorem progSetWindow_eq (c : Config) (x y w h : Nat) : progSetWindow c x y w h =
    .checkReady :: .checkWindow x y w h :: (addressSet c.cmdCaset (wireRange c.marginX x w) ++
      (addressSet c.cmdRaset (wireRange c.marginY y h) ++ [.respond false 0])) := by
  simp only [progSetWindow, addressSet, List.append_assoc]

theorem FramerState.run_addressSet {s t : State} {r : Receiver} (h : FramerState s false r t)
    (hf : s.chanFair = true) (c : Byte) (range : Nat × Nat) (ps : List Prim) :
    ∃ t', t.run (addressSet c range ++ ps) = t'.run ps ∧
      FramerState s false (Receiver.dataAll s.cfg (rangeBytes range) (Receiver.command s.cfg c r)) t' := by
  obtain ⟨t1, e1, h1⟩ := h.run_command hf c (data (rangeBytes range) 0 ++ ps)
  obtain ⟨t2, e2, h2⟩ := h1.run_data hf (rangeBytes range) 0 ps
  have honce : sentBytes (rangeBytes range) 0 = rangeBytes range := List.append_nil _
  exact ⟨t2, by rw [addressSet, List.append_assoc, e1, e2], honce ▸ h2⟩

/-- The registers of a good window, as numbers. -/
theorem Receiver.withWindow_toNat {c : Config} {x y w h : Nat} (hc : c.wf = true) (hw : windowOk c x y w h = true)
    (r : Receiver) :
    (r.withWindow c x y w h).xs.toNat = c.marginX + x ∧ (r.withWindow c x y w h).xe.toNat = c.marginX + x + w - 1 ∧
    (r.withWindow c x y w h).ys.toNat = c.marginY + y ∧ (r.withWindow c x y w h).ye.toNat = c.marginY + y + h - 1 := by
  obtain ⟨hmx, hmy⟩ := Config.margins_of_wf hc
  obtain ⟨hw1, hh1, hxw, hyh⟩ := (windowOk_iff c x y w h).1 hw
  simp only [Receiver.withWindow, wireRange, BitVec.toNat_ofNat]
  omega

/-- What the controller holds after SET_WINDOW of a good window in a ready block on a fair channel (40_framer.md R128),
when the three commands differ. -/
theorem exec_setWindow_framerState {s : State} {x y w h : BitVec 12} (hcol : s.cfg.cmdCaset ≠ s.cfg.cmdRaset)
    (hramx : s.cfg.cmdRamwr ≠ s.cfg.cmdCaset) (hramy : s.cfg.cmdRamwr ≠ s.cfg.cmdRaset)
    (hr : s.frInit = .ready) (hf : s.chanFair = true) (hn : NoReset s)
    (hw : windowOk s.cfg x.toNat y.toNat w.toNat h.toNat = true) : ∃ t, exec (.setWindow x y w h) s = .next t ∧
      FramerState s true (s.rx.withWindow s.cfg x.toNat y.toNat w.toNat h.toNat) t := by
  have hprog : (s.begin (.setWindow x y w h)).program (.setWindow x y w h) =
      progSetWindow s.cfg x.toNat y.toNat w.toNat h.toNat := rfl
  have h0 := FramerState.begin hn (.setWindow x y w h)
  obtain ⟨t1, e1, h1⟩ := h0.advance.advance.run_addressSet hf s.cfg.cmdCaset (wireRange s.cfg.marginX x.toNat w.toNat)
    (addressSet s.cfg.cmdRaset (wireRange s.cfg.marginY y.toNat h.toNat) ++ [.respond false 0])
  obtain ⟨t2, e2, h2⟩ := h1.run_addressSet hf s.cfg.cmdRaset (wireRange s.cfg.marginY y.toNat h.toNat)
    [.respond false 0]
  rw [Receiver.columnSet hramx, Receiver.rowSet hramy hcol] at h2
  refine ⟨t2.respond false 0, ?_, h2.respond false 0⟩
  rw [exec_eq_run, hprog, progSetWindow_eq, h0.run_checkReady hr, h0.advance.run_checkWindow hw, e1, e2,
    State.run_respond]

/-- Settles O36: the request leaves the receiver with the window in its registers and nothing else written. -/
theorem setWindowReachesTheReceiver : Obligations.SetWindowReachesTheReceiver := by
  intro s t x y w h hc hcol hramx hramy hr hf hn hw hexec
  obtain ⟨t', ht, hstate⟩ := exec_setWindow_framerState hcol hramx hramy hr hf hn hw
  cases hexec.symm.trans ht
  obtain ⟨hxs, hxe, hys, hye⟩ := Receiver.withWindow_toNat hc hw s.rx
  rw [hstate.rx]
  exact ⟨hxs, hxe, hys, hye, rfl, fun _ _ => rfl⟩

end Sys2Proof.Machine

/-! PROOF. A solid fill (20_memory.md R75, R76, R79; 45_host_sequences.md R190, R191): one-color pixel writes from the
window's first place paint the window in row-major order, and paint nothing else. -/

namespace Sys2Proof.Machine

/-! ### The window in row-major order -/

/-- A cell lies in the receiver's window (20_memory.md R73). -/
def Receiver.InWindow (r : Receiver) (col row : Nat) : Prop :=
  r.xs.toNat ≤ col ∧ col ≤ r.xe.toNat ∧ r.ys.toNat ≤ row ∧ row ≤ r.ye.toNat

/-- The receiver's pointer, as a place. -/
def Receiver.pointer (r : Receiver) : Nat × Nat := (r.cx.toNat, r.cy.toNat)

/-- A cell comes before a place in row-major order. -/
def comesBefore (col row : Nat) (place : Nat × Nat) : Prop := row < place.2 ∨ row = place.2 ∧ col < place.1

/-- How many of the window's cells come before a place of it. -/
def Receiver.placeIndex (r : Receiver) (place : Nat × Nat) : Nat :=
  (place.2 - r.ys.toNat) * (r.xe.toNat - r.xs.toNat + 1) + (place.1 - r.xs.toNat)

section
variable {r : Receiver}

theorem Receiver.InWindow.col_lt {col row : Nat} (h : r.InWindow col row) : col < 65536 :=
  lt_of_le_of_lt h.2.1 r.xe.isLt

/-- The pointer in the window goes one column on, to the next row, or back to the start (20_memory.md R76). -/
theorem Receiver.InWindow.nextPlace_cases (h : r.InWindow r.cx.toNat r.cy.toNat) :
    (r.cx.toNat < r.xe.toNat ∧ r.nextPlace = (r.cx.toNat + 1, r.cy.toNat)) ∨
    (r.cx.toNat = r.xe.toNat ∧ r.cy.toNat < r.ye.toNat ∧ r.nextPlace = (r.xs.toNat, r.cy.toNat + 1)) ∨
    (r.cx.toNat = r.xe.toNat ∧ r.cy.toNat = r.ye.toNat ∧ r.nextPlace = (r.xs.toNat, r.ys.toNat)) := by
  obtain ⟨-, hcx, -, hcy⟩ := h
  rcases Nat.lt_or_eq_of_le hcx with hlt | heq
  · refine .inl ⟨hlt, ?_⟩
    have hstep : r.stepped = (r.cx.toNat + 1, r.cy.toNat) := if_neg (by omega)
    rw [Receiver.nextPlace, hstep, if_neg (by simpa using hcy)]
  · have hstep : r.stepped = (r.xs.toNat, r.cy.toNat + 1) := if_pos (by omega)
    rcases Nat.lt_or_eq_of_le hcy with hrow | hrow
    · exact .inr (.inl ⟨heq, hrow, by rw [Receiver.nextPlace, hstep, if_neg (by simpa using hrow)]⟩)
    · exact .inr (.inr ⟨heq, hrow, by rw [Receiver.nextPlace, hstep, if_pos (by simp [hrow])]⟩)

theorem Receiver.InWindow.nextPlace (h : r.InWindow r.cx.toNat r.cy.toNat) :
    r.InWindow r.nextPlace.1 r.nextPlace.2 := by
  obtain ⟨hxs, hxe, hys, hye⟩ := h
  rcases Receiver.InWindow.nextPlace_cases ⟨hxs, hxe, hys, hye⟩ with ⟨hcol, hn⟩ | ⟨-, hrow, hn⟩ | ⟨-, -, hn⟩ <;> rw [hn]
  · exact ⟨Nat.le_succ_of_le hxs, hcol, hys, hye⟩
  · exact ⟨le_rfl, hxs.trans hxe, Nat.le_succ_of_le hys, hrow⟩
  · exact ⟨le_rfl, hxs.trans hxe, le_rfl, hys.trans hye⟩

/-- Either the next place has one more cell before it, the pointer's, or the pointer's cell is the window's last. -/
theorem Receiver.InWindow.nextPlace_advances (h : r.InWindow r.cx.toNat r.cy.toNat) :
    (r.placeIndex r.nextPlace = r.placeIndex r.pointer + 1 ∧ ∀ col row, r.InWindow col row →
      comesBefore col row r.nextPlace → comesBefore col row r.pointer ∨ col = r.cx.toNat ∧ row = r.cy.toNat) ∨
    (∀ col row, r.InWindow col row → comesBefore col row r.pointer ∨ col = r.cx.toNat ∧ row = r.cy.toNat) := by
  have ⟨hxs, _, hys, _⟩ := h
  simp only [Receiver.placeIndex, Receiver.pointer, comesBefore, Receiver.InWindow]
  rcases h.nextPlace_cases with ⟨hcol, hn⟩ | ⟨hcol, hrow, hn⟩ | ⟨hcol, hrow, -⟩
  · left
    rw [hn]
    dsimp only
    exact ⟨by omega, by omega⟩
  · left
    rw [hn]
    dsimp only
    have hsucc : r.cy.toNat + 1 - r.ys.toNat = r.cy.toNat - r.ys.toNat + 1 := by omega
    rw [hsucc, Nat.succ_mul]
    exact ⟨by omega, by omega⟩
  · right
    omega

/-- A place of the window has fewer cells before it than the window has. -/
theorem Receiver.InWindow.placeIndex_lt {col row : Nat} (h : r.InWindow col row) :
    r.placeIndex (col, row) < (r.ye.toNat - r.ys.toNat + 1) * (r.xe.toNat - r.xs.toNat + 1) := by
  obtain ⟨hxs, hxe, hys, hye⟩ := h
  have hrows : (row - r.ys.toNat) * (r.xe.toNat - r.xs.toNat + 1) ≤
      (r.ye.toNat - r.ys.toNat) * (r.xe.toNat - r.xs.toNat + 1) := Nat.mul_le_mul_right _ (by omega)
  rw [Receiver.placeIndex, Nat.succ_mul]
  dsimp only
  omega

end

/-! ### One-color pixel writes -/

/-- What `n` one-color pixel writes from the start of `r0`'s window leave. -/
structure Receiver.Painting (c : Config) (r0 : Receiver) (color : Pixel) (n : Nat) (r : Receiver) : Prop where
  inOrder : r.InOrder c
  window  : r.xs = r0.xs ∧ r.xe = r0.xe ∧ r.ys = r0.ys ∧ r.ye = r0.ye
  pointer : r.InWindow r.cx.toNat r.cy.toNat
  outside : ∀ col row, col < 65536 → ¬ r.InWindow col row → r.pixelAt col row = r0.pixelAt col row
  inside  : (r.placeIndex r.pointer = n ∧
              ∀ col row, r.InWindow col row → comesBefore col row r.pointer → r.pixelAt col row = color) ∨
            (∀ col row, r.InWindow col row → r.pixelAt col row = color)

section
variable {c : Config} {r r0 : Receiver} {color : Pixel} {n : Nat}

theorem Receiver.InOrder.writePixel_window (h : r.InOrder c) (p : Pixel) :
    (Receiver.writePixel c p r).xs = r.xs ∧ (Receiver.writePixel c p r).xe = r.xe ∧
    (Receiver.writePixel c p r).ys = r.ys ∧ (Receiver.writePixel c p r).ye = r.ye := by
  rw [h.writePixel_eq]
  exact ⟨rfl, rfl, rfl, rfl⟩

theorem Receiver.Painting.start (h : r0.InOrder c) (hcx : r0.cx = r0.xs) (hcy : r0.cy = r0.ys) :
    Receiver.Painting c r0 color 0 r0 := by
  have hcols := h.cols
  have hrows := h.rows
  refine ⟨h, ⟨rfl, rfl, rfl, rfl⟩, ?_, fun _ _ _ _ => rfl, .inl ⟨?_, fun col row hin hbefore => ?_⟩⟩
  · simp only [Receiver.InWindow, hcx, hcy]
    omega
  · simp [Receiver.placeIndex, Receiver.pointer, hcx, hcy]
  · simp only [Receiver.InWindow, comesBefore, Receiver.pointer, hcx, hcy] at hin hbefore
    omega

/-- One more pixel write paints the cell at the pointer. -/
theorem Receiver.Painting.writePixel (h : Receiver.Painting c r0 color n r) :
    Receiver.Painting c r0 color (n + 1) (Receiver.writePixel c color r) := by
  obtain ⟨horder, ⟨hxs0, hxe0, hys0, hye0⟩, hpointer, houtside, hinside⟩ := h
  obtain ⟨hxs, hxe, hys, hye⟩ := horder.writePixel_window color
  obtain ⟨hcx, hcy⟩ := horder.writePixel_pointer color
  have hwindow (col row : Nat) : (Receiver.writePixel c color r).InWindow col row ↔ r.InWindow col row := by
    simp only [Receiver.InWindow, hxs, hxe, hys, hye]
  have hplace : (Receiver.writePixel c color r).pointer = r.nextPlace := Prod.ext hcx hcy
  have hindex (place : Nat × Nat) : (Receiver.writePixel c color r).placeIndex place = r.placeIndex place := by
    simp only [Receiver.placeIndex, hxs, hxe, hys]
  have hread {col row : Nat} (hcol : col < 65536) := horder.writePixel_pixelAt color hcol row
  refine ⟨horder.writePixel color, ⟨hxs.trans hxs0, hxe.trans hxe0, hys.trans hys0, hye.trans hye0⟩, ?_, ?_, ?_⟩
  · rw [hwindow, hcx, hcy]
    exact hpointer.nextPlace
  · intro col row hcol hout
    rw [hwindow] at hout
    have hne : ¬ (col = r.cx.toNat ∧ row = r.cy.toNat) := by
      rintro ⟨rfl, rfl⟩
      exact hout hpointer
    rw [hread hcol, if_neg hne, houtside col row hcol hout]
  · have hpainted {col row : Nat} (hin : r.InWindow col row)
        (hc : r.pixelAt col row = color ∨ col = r.cx.toNat ∧ row = r.cy.toNat) :
        (Receiver.writePixel c color r).pixelAt col row = color := by
      rw [hread hin.col_lt]
      split
      next => rfl
      next hne => exact hc.resolve_right hne
    simp only [hwindow, hplace, hindex]
    rcases hinside with ⟨hn, hbefore⟩ | hall
    · rcases hpointer.nextPlace_advances with ⟨hnext, hb⟩ | hb
      · exact .inl ⟨hn ▸ hnext, fun col row hin hlt =>
          hpainted hin ((hb col row hin hlt).imp_left (hbefore col row hin))⟩
      · exact .inr fun col row hin => hpainted hin ((hb col row hin).imp_left (hbefore col row hin))
    · exact .inr fun col row hin => hpainted hin (.inl (hall col row hin))

theorem Receiver.Painting.iterate (h : r0.InOrder c) (hcx : r0.cx = r0.xs) (hcy : r0.cy = r0.ys) (color : Pixel)
    (n : Nat) : Receiver.Painting c r0 color n ((Receiver.writePixel c color)^[n] r0) := by
  induction n with
  | zero => exact .start h hcx hcy
  | succ n ih => rw [Function.iterate_succ_apply']; exact ih.writePixel

/-- As many pixel writes as the window has cells, or more, paint all of it. -/
theorem Receiver.Painting.painted (h : Receiver.Painting c r0 color n r)
    (hn : (r0.ye.toNat - r0.ys.toNat + 1) * (r0.xe.toNat - r0.xs.toNat + 1) ≤ n) {col row : Nat}
    (hin : r0.InWindow col row) : r.pixelAt col row = color := by
  obtain ⟨-, ⟨hxs, hxe, hys, hye⟩, hpointer, -, hinside⟩ := h
  rw [← hxs, ← hxe, ← hys, ← hye] at hn
  have hin' : r.InWindow col row := by simpa only [Receiver.InWindow, hxs, hxe, hys, hye] using hin
  rcases hinside with ⟨hindex, -⟩ | hall
  · exact absurd (hindex ▸ hn) (Nat.not_le.2 hpointer.placeIndex_lt)
  · exact hall col row hin'

theorem Receiver.Painting.untouched (h : Receiver.Painting c r0 color n r) {col row : Nat} (hcol : col < 65536)
    (hout : ¬ r0.InWindow col row) : r.pixelAt col row = r0.pixelAt col row := by
  obtain ⟨-, ⟨hxs, hxe, hys, hye⟩, -, houtside, -⟩ := h
  exact houtside col row hcol (by simpa only [Receiver.InWindow, hxs, hxe, hys, hye] using hout)

/-! ### Patterns of one color -/

/-- A whole pattern after the memory-write command writes its two pixels (20_memory.md R75). -/
theorem Receiver.dataAll_pattern (hcmd : r.cmd = some c.cmdRamwr) (hcaset : c.cmdRamwr ≠ c.cmdCaset)
    (hraset : c.cmdRamwr ≠ c.cmdRaset) (hpix : r.pix = []) (b0 b1 b2 : Byte) :
    Receiver.dataAll c [b0, b1, b2] r =
      Receiver.writePixel c (secondPixel b1 b2) (Receiver.writePixel c (firstPixel b0 b1) r) := by
  have hfirst : Receiver.data c b0 r = { r with pix := [b0] } := by
    simp [Receiver.data, Receiver.pixelData, hcmd, hcaset, hraset, hpix]
  have hsecond : Receiver.data c b1 { r with pix := [b0] } = { r with pix := [b0, b1] } := by
    simp [Receiver.data, Receiver.pixelData, hcmd, hcaset, hraset]
  have hthird := Receiver.data_third_byte (r := { r with pix := [b0, b1] }) hcmd hcaset hraset rfl b2
  have hsame : ({ r with pix := [] } : Receiver) = r := by rw [← hpix]
  rw [Receiver.dataAll, List.foldl_cons, List.foldl_cons, List.foldl_cons, List.foldl_nil, hfirst, hsecond, hthird,
    hsame]

/-- A one-color pattern, `n` times (20_memory.md R75). -/
theorem Receiver.dataAll_patterns (hcmd : r.cmd = some c.cmdRamwr) (hcaset : c.cmdRamwr ≠ c.cmdCaset)
    (hraset : c.cmdRamwr ≠ c.cmdRaset) (hpix : r.pix = []) {b0 b1 b2 : Byte} (h1 : firstPixel b0 b1 = color)
    (h2 : secondPixel b1 b2 = color) (n : Nat) :
    Receiver.dataAll c (List.replicate n [b0, b1, b2]).flatten r = (Receiver.writePixel c color)^[2 * n] r := by
  induction n generalizing r with
  | zero => rfl
  | succ n ih =>
    have hone := Receiver.dataAll_pattern hcmd hcaset hraset hpix b0 b1 b2
    have hrest := ih (r := Receiver.dataAll c [b0, b1, b2] r) (by simp [hone, hcmd]) (by simp [hone, hpix])
    rw [List.replicate_succ, List.flatten_cons, Receiver.dataAll, List.foldl_append]
    refine hrest.trans ?_
    rw [hone, h1, h2]
    rfl

end

/-! ### The fill -/

/-- The fill's patterns hold every cell of its window (45_host_sequences.md R190, R191). -/
theorem area_le_fillRepeat (w h : Nat) : w * h ≤ 2 * (fillRepeat w h + 1) := by
  rw [fillRepeat]
  omega

/-- The repeat of a fill fits its field. -/
theorem fillRepeat_toNat (w h : BitVec 12) :
    (BitVec.ofNat 32 (fillRepeat w.toNat h.toNat)).toNat = fillRepeat w.toNat h.toNat := by
  have harea : w.toNat * h.toNat < 2 ^ 12 * 2 ^ 12 := Nat.mul_lt_mul'' w.isLt h.isLt
  rw [BitVec.toNat_ofNat, fillRepeat]
  omega

/-- The receiver at the start of a fill: its window set, then the memory-write command. -/
def Receiver.fillStart (c : Config) (x y w h : Nat) (r : Receiver) : Receiver :=
  Receiver.command c c.cmdRamwr (r.withWindow c x y w h)

theorem Receiver.fillStart_eq (c : Config) (x y w h : Nat) (r : Receiver) : r.fillStart c x y w h =
    { r.withWindow c x y w h with
      cmd  := some c.cmdRamwr
      args := []
      pix  := []
      cx   := (r.withWindow c x y w h).xs
      cy   := (r.withWindow c x y w h).ys } :=
  Receiver.command_ramwr c _

section
variable {c : Config} {x y w h : Nat}

/-- The window's registers are not the command's to change (20_memory.md R72). -/
theorem Receiver.fillStart_toNat (hc : c.wf = true) (hw : windowOk c x y w h = true) (r : Receiver) :
    (r.fillStart c x y w h).xs.toNat = c.marginX + x ∧ (r.fillStart c x y w h).xe.toNat = c.marginX + x + w - 1 ∧
    (r.fillStart c x y w h).ys.toNat = c.marginY + y ∧ (r.fillStart c x y w h).ye.toNat = c.marginY + y + h - 1 := by
  rw [Receiver.fillStart_eq]
  exact Receiver.withWindow_toNat hc hw r

theorem Receiver.fillStart_inWindow_iff (hc : c.wf = true) (hw : windowOk c x y w h = true) (r : Receiver)
    (col row : Nat) : (r.fillStart c x y w h).InWindow col row ↔
      c.marginX + x ≤ col ∧ col < c.marginX + x + w ∧ c.marginY + y ≤ row ∧ row < c.marginY + y + h := by
  obtain ⟨hxs, hxe, hys, hye⟩ := Receiver.fillStart_toNat hc hw r
  obtain ⟨hw1, hh1, -, -⟩ := (windowOk_iff c x y w h).1 hw
  rw [Receiver.InWindow, hxs, hxe, hys, hye]
  omega

theorem Receiver.fillStart_inOrder (hc : c.wf = true) (hw : windowOk c x y w h = true) (hscan : c.rxScan = .rowMajor)
    (hwrap : c.rxWrap = .toStart) {r : Receiver} (hram : Memory.wf r.ram = true) :
    (r.fillStart c x y w h).InOrder c := by
  obtain ⟨hxs, hxe, hys, hye⟩ := Receiver.fillStart_toNat hc hw r
  obtain ⟨hw1, hh1, -, -⟩ := (windowOk_iff c x y w h).1 hw
  exact ⟨hscan, hwrap, by omega, by omega, by rw [Receiver.fillStart_eq]; exact hram⟩

/-- The bytes of a fill are one-color pixel writes from the window's first place. -/
theorem Receiver.fillStart_painting {r : Receiver} (horder : (r.fillStart c x y w h).InOrder c)
    (hcaset : c.cmdRamwr ≠ c.cmdCaset) (hraset : c.cmdRamwr ≠ c.cmdRaset) {c0 c1 c2 : Byte} {color : Pixel}
    (h1 : firstPixel c0 c1 = color) (h2 : secondPixel c1 c2 = color) (n : Nat) :
    Receiver.Painting c (r.fillStart c x y w h) color (2 * (n + 1))
      (Receiver.dataAll c (sentBytes [c0, c1, c2] n) (r.fillStart c x y w h)) := by
  obtain ⟨hcmd, hpix, hcx, hcy⟩ : (r.fillStart c x y w h).cmd = some c.cmdRamwr ∧ (r.fillStart c x y w h).pix = [] ∧
      (r.fillStart c x y w h).cx = (r.fillStart c x y w h).xs ∧
      (r.fillStart c x y w h).cy = (r.fillStart c x y w h).ys := by
    rw [Receiver.fillStart_eq]
    exact ⟨rfl, rfl, rfl, rfl⟩
  rw [sentBytes, Receiver.dataAll_patterns hcmd hcaset hraset hpix h1 h2]
  exact .iterate horder hcx hcy color _

end

/-- Settles O37: SET_WINDOW puts the window into the registers, WRITE_PIXELS writes the color from its first place on,
as often as the window has cells or once more, and in-order pixel writes paint the window and nothing else. -/
theorem fillRectPaintsExactlyItsWindow : Obligations.FillRectPaintsExactlyItsWindow := by
  intro s x y w h c0 c1 c2 color hc hscan hwrap hcol hcaset hraset hram hr hf hn hw h1 h2
  obtain ⟨t, ht, hset⟩ := exec_setWindow_framerState hcol hcaset.symm hraset.symm hr hf hn hw
  obtain ⟨u, hu, hwrite⟩ := exec_writePixels_framerState (hset.frInit.trans hr) (hset.chanFair.trans hf) hset.noReset
    [c0, c1, c2] (BitVec.ofNat 32 (fillRepeat w.toNat h.toNat))
  have hpaint := Receiver.fillStart_painting (Receiver.fillStart_inOrder hc hw hscan hwrap hram) hcaset.symm hraset.symm
    h1 h2 (fillRepeat w.toNat h.toNat)
  have hrx := hwrite.rx
  rw [hset.rx, hset.cfg, fillRepeat_toNat, ← Receiver.fillStart] at hrx
  rw [← hrx] at hpaint
  have hin := Receiver.fillStart_inWindow_iff hc hw s.rx
  obtain ⟨hw1, hh1, hxw, hyh⟩ := (windowOk_iff _ _ _ _ _).1 hw
  refine ⟨t, u, ht, hu, (Sequencer.isIdle_iff _).1 hwrite.seq, hwrite.fault.trans hset.fault, ?_, ?_⟩
  · intro px py hx1 hx2 hy1 hy2
    rw [Receiver.logicalPixel, if_pos ⟨by omega, by omega⟩, hpaint.painted ?_ ((hin _ _).2 (by omega))]
    obtain ⟨hxs, hxe, hys, hye⟩ := Receiver.fillStart_toNat hc hw s.rx
    have hcols : s.cfg.marginX + x.toNat + w.toNat - 1 - (s.cfg.marginX + x.toNat) + 1 = w.toNat := by omega
    have hrows : s.cfg.marginY + y.toNat + h.toNat - 1 - (s.cfg.marginY + y.toNat) + 1 = h.toNat := by omega
    rw [hxs, hxe, hys, hye, hcols, hrows, Nat.mul_comm]
    exact area_le_fillRepeat _ _
  · intro col row hcol' _ hout
    rw [hpaint.untouched hcol' fun h' => hout ((hin col row).1 h'), Receiver.fillStart_eq]
    rfl

end Sys2Proof.Machine

/-! PROOF. The request encoding (30_encoding.md R90-R100): a word and payload decode to a request exactly when they are
its encoding and it is well formed. What does not decode is refused for its opcode, a reserved bit, its payload or a
channel. -/

namespace Sys2Proof

/-! ### Fields of a word -/

theorem slice_lt (w : RequestWord) (lo n : Nat) : slice w lo n < 2 ^ n := Nat.mod_lt _ (Nat.two_pow_pos n)

@[simp] theorem toNat_ofNat_slice (w : RequestWord) (lo n : Nat) :
    (BitVec.ofNat n (slice w lo n)).toNat = slice w lo n := by
  rw [BitVec.toNat_ofNat, Nat.mod_eq_of_lt (slice_lt w lo n)]

theorem slice_one_cases (w : RequestWord) (lo : Nat) : slice w lo 1 = 0 ∨ slice w lo 1 = 1 := by
  have := slice_lt w lo 1
  omega

/-- A one-bit field, read as a flag and written again. -/
@[simp] theorem toNat_slice_one (w : RequestWord) (lo : Nat) : (slice w lo 1 == 1).toNat = slice w lo 1 := by
  obtain h | h := slice_one_cases w lo
  all_goals rw [h]; rfl

theorem getLsbD_eq_false_of_slice_eq_zero {w : RequestWord} {lo n j : Nat} (h : slice w lo n = 0) (hlo : lo ≤ j)
    (hj : j < lo + n) : w.getLsbD j = false := by
  have hbit : (slice w lo n).testBit (j - lo) = w.getLsbD j := by
    rw [slice, Nat.testBit_mod_two_pow, Nat.testBit_div_two_pow, Nat.sub_add_cancel hlo, decide_eq_true (by omega),
      Bool.true_and, BitVec.getLsbD]
  rw [← hbit, h, Nat.zero_testBit]

/-- A word is its opcode byte and its operand fields (30_encoding.md R91). -/
theorem ofNat_slices (w : RequestWord) : BitVec.ofNat 64 (slice w 56 8 * 2 ^ 56 + slice w 0 56) = w := by
  refine BitVec.eq_of_toNat_eq ?_
  simp only [slice, BitVec.toNat_ofNat]
  omega

/-! ### The checks of 30_encoding.md R99 -/

/-- The lowest reserved-zero bit of a format and how many there are: the table of 30_encoding.md R91. -/
def reservedRange : Format → Nat × Nat
  | .none    => (0, 56)
  | .byte    => (8, 48)
  | .data    => (0, 0)
  | .window  => (48, 8)
  | .bit     => (1, 55)
  | .channel => (17, 39)

theorem reservedClear_iff (f : Format) (w : RequestWord) :
    reservedClear f w = true ↔ slice w (reservedRange f).1 (reservedRange f).2 = 0 := by
  cases f with
  | data => exact iff_of_true rfl (Nat.mod_one _)
  | _ => exact beq_iff_eq

theorem payloadError_data_iff (c : Config) (w : RequestWord) (p : List Byte) :
    payloadError c .data w p = none ↔ p.length = slice w 32 24 ∧ slice w 32 24 ≤ c.payloadMax := by
  by_cases hlen : p.length = slice w 32 24
  · simp [payloadError, carriesPayload, hlen]
  · simp [payloadError, carriesPayload, hlen]

theorem payloadError_iff_of_ne_data {f : Format} (hf : f ≠ .data) (c : Config) (w : RequestWord) (p : List Byte) :
    payloadError c f w p = none ↔ p = [] := by
  have hcarries : carriesPayload f = false := by cases f with
    | data => exact absurd rfl hf
    | _ => rfl
  simp [payloadError, hcarries]

theorem channelValid_iff (c : Config) (ch : Byte) : channelValid c ch = true ↔ ch ∈ c.noiseChannels :=
  List.contains_iff_mem

/-- The second channel of a word by its `XOR` bit: zero without it, a valid channel with it. -/
theorem secondChannelValid_slice_iff (c : Config) (w : RequestWord) :
    secondChannelValid c (slice w 16 1 == 1) (BitVec.ofNat 8 (slice w 0 8)) = true ↔
      (slice w 16 1 = 0 → slice w 0 8 = 0) ∧
        (slice w 16 1 = 1 → channelValid c (BitVec.ofNat 8 (slice w 0 8)) = true) := by
  have hzero : BitVec.ofNat 8 (slice w 0 8) = 0#8 ↔ slice w 0 8 = 0 := by
    rw [← BitVec.toNat_inj, toNat_ofNat_slice, BitVec.toNat_ofNat, Nat.zero_mod]
  obtain h | h := slice_one_cases w 16
  · simp [secondChannelValid, h, hzero]
  · simp [secondChannelValid, h]

theorem channelError_exAddNoise_iff (c : Config) (w : RequestWord) : channelError c .exAddNoise w = none ↔
    channelValid c (BitVec.ofNat 8 (slice w 8 8)) = true ∧
      secondChannelValid c (slice w 16 1 == 1) (BitVec.ofNat 8 (slice w 0 8)) = true := by
  rw [secondChannelValid_slice_iff, channelError, if_neg (by decide)]
  split_ifs with hzero hA hB
  · exact iff_of_false nofun fun ⟨_, hz, _⟩ => hzero.2 (hz hzero.1)
  · exact iff_of_false nofun fun ⟨hv, _⟩ => Bool.false_ne_true (hA.symm.trans hv)
  · exact iff_of_false nofun fun ⟨_, _, hv⟩ => Bool.false_ne_true (hB.2.symm.trans (hv hB.1))
  · exact iff_of_true rfl ⟨Bool.eq_true_of_not_eq_false hA, fun h => by_contra fun hn => hzero ⟨h, hn⟩,
      fun h => Bool.eq_true_of_not_eq_false fun hn => hB ⟨h, hn⟩⟩

/-! ### Opcodes -/

/-- The opcode whose operands a request holds (30_encoding.md R94). -/
def Instr.opcode : Instr → Opcode
  | .sendCmd _         => .sendCmd
  | .sendData _ _      => .sendData
  | .setWindow _ _ _ _ => .setWindow
  | .writePixels _ _   => .writePixels
  | .init              => .init
  | .displayOn         => .displayOn
  | .exAddBit _        => .exAddBit
  | .exAddNoise _ _ _  => .exAddNoise
  | .exNext            => .exNext
  | .exAvailable       => .exAvailable
  | .exCapacity        => .exCapacity

@[simp] theorem opcode_operandsOf (op : Opcode) (w : RequestWord) (p : List Byte) : (operandsOf op w p).opcode = op := by
  cases op <;> rfl

/-- Each request's opcode number is the only one that the opcode map gives its opcode. -/
theorem opcodeOf_eq_some_opcode_iff (n : Nat) (i : Instr) : opcodeOf n = some i.opcode ↔ n = opcodeNumber i := by
  rw [opcodeOf_eq_some_iff]
  cases i <;> simp [Instr.opcode, opcodeNumber]

theorem opcodeNumber_lt (i : Instr) : opcodeNumber i < 256 := by cases i <;> exact of_decide_eq_true rfl

theorem formatOf_eq_data_iff (op : Opcode) : formatOf op = .data ↔ op = .sendData ∨ op = .writePixels := by
  cases op <;> decide

/-! ### What decodes is the encoding of a well-formed request -/

section
variable {c : Config} {op : Opcode} {w : RequestWord} {p : List Byte}

theorem payloadOf_operandsOf (hpay : payloadError c (formatOf op) w p = none) : payloadOf (operandsOf op w p) = p := by
  by_cases hf : formatOf op = .data
  · obtain rfl | rfl := (formatOf_eq_data_iff op).1 hf
    · rfl
    · rfl
  · rw [(payloadError_iff_of_ne_data hf c w p).1 hpay]
    cases op <;> rfl

/-- The fields of each format and its reserved bits make up `W[55:0]` (30_encoding.md R91). -/
theorem operandFields_operandsOf (hres : reservedClear (formatOf op) w = true)
    (hpay : payloadError c (formatOf op) w p = none) : operandFields (operandsOf op w p) = slice w 0 56 := by
  have hclear := (reservedClear_iff _ w).1 hres
  have hlen (hf : formatOf op = .data) : p.length = slice w 32 24 :=
    ((payloadError_data_iff c w p).1 (hf ▸ hpay)).1
  cases op with
  | sendData | writePixels =>
    simp only [operandsOf, operandFields, toNat_ofNat_slice, hlen rfl]
    simp only [slice]
    omega
  | sendCmd | setWindow | exAddBit | exAddNoise =>
    simp only [formatOf, reservedRange, slice] at hclear
    simp only [operandsOf, operandFields, toNat_ofNat_slice, toNat_slice_one]
    simp only [slice]
    omega
  | init | displayOn | exNext | exAvailable | exCapacity => exact hclear.symm

theorem operandsOf_wf (hpay : payloadError c (formatOf op) w p = none) (hch : channelError c op w = none) :
    (operandsOf op w p).wf c = true := by
  have hfits (hf : formatOf op = .data) : payloadFits c p = true := by
    obtain ⟨hlen, hmax⟩ := (payloadError_data_iff c w p).1 (hf ▸ hpay)
    rw [payloadFits, hlen, decide_eq_true (slice_lt w 32 24), decide_eq_true hmax, Bool.and_self]
  cases op with
  | sendData | writePixels => exact hfits rfl
  | exAddNoise => exact (Bool.and_eq_true _ _).mpr ((channelError_exAddNoise_iff c w).1 hch)
  | _ => rfl

end

/-- Settles O2: the opcode byte, the operand fields and the payload are each read back. -/
theorem encodeDecodeRoundTrip : Obligations.EncodeDecodeRoundTrip := by
  intro c w p i h
  obtain ⟨op, hop, hres, hpay, -, rfl⟩ := (decode_eq_ok_iff c w p i).1 h
  have hnumber : slice w 56 8 = opcodeNumber (operandsOf op w p) :=
    (opcodeOf_eq_some_opcode_iff _ _).1 (by rw [hop, opcode_operandsOf])
  rw [encode, ← hnumber, operandFields_operandsOf hres hpay, ofNat_slices, payloadOf_operandsOf hpay]

/-- Settles O3: the payload and channel checks are what well-formedness asks. -/
theorem decodedRequestsAreWellFormed : Obligations.DecodedRequestsAreWellFormed := by
  intro c w p i h
  obtain ⟨op, -, -, hpay, hch, rfl⟩ := (decode_eq_ok_iff c w p i).1 h
  exact operandsOf_wf hpay hch

/-! ### The encoding of a well-formed request decodes -/

section
variable {c : Config} {i : Instr}

theorem operandFields_lt (h : i.wf c = true) : operandFields i < 2 ^ 56 := by
  cases i with
  | sendData p r | writePixels p r => exact Laws.EncodingOpcode.payload_fields c p r h
  | sendCmd | setWindow => simp only [operandFields]; omega
  | exAddBit b => have := b.toNat_lt; simp only [operandFields]; omega
  | exAddNoise two a b => have := two.toNat_lt; simp only [operandFields]; omega
  | init | displayOn | exNext | exAvailable | exCapacity => decide

theorem slice_encode_opcode (h : i.wf c = true) : slice (encode i).word 56 8 = opcodeNumber i :=
  Laws.EncodingOpcode.slice_top _ _ (opcodeNumber_lt i) (operandFields_lt h)

/-- A field of `W[55:0]` is read off the operand fields alone. -/
theorem slice_encode (i : Instr) {lo n : Nat} (hn : lo + n ≤ 56) :
    slice (encode i).word lo n = operandFields i / 2 ^ lo % 2 ^ n := by
  have hdvd {k : Nat} (hk : lo + n ≤ k) : 2 ^ lo * 2 ^ n ∣ 2 ^ k := by
    rw [← Nat.pow_add]; exact Nat.pow_dvd_pow 2 hk
  rw [slice, encode, BitVec.toNat_ofNat, ← Nat.mod_mul_right_div_self, ← Nat.mod_mul_right_div_self,
    Nat.mod_mod_of_dvd _ (hdvd (by omega)), Nat.add_mod, Nat.mod_eq_zero_of_dvd ((hdvd hn).mul_left _), Nat.zero_add,
    Nat.mod_mod]

theorem reservedRange_le (f : Format) : (reservedRange f).1 + (reservedRange f).2 ≤ 56 := by cases f <;> decide

theorem reservedClear_encode (i : Instr) : reservedClear (formatOf i.opcode) (encode i).word = true := by
  rw [reservedClear_iff, slice_encode i (reservedRange_le _)]
  cases i with
  | sendData | writePixels => exact Nat.mod_one _
  | sendCmd | setWindow => simp only [Instr.opcode, formatOf, reservedRange, operandFields]; omega
  | exAddBit b => have := b.toNat_lt; simp only [Instr.opcode, formatOf, reservedRange, operandFields]; omega
  | exAddNoise two a b => have := two.toNat_lt; simp only [Instr.opcode, formatOf, reservedRange, operandFields]; omega
  | init | displayOn | exNext | exAvailable | exCapacity => decide

theorem payloadError_encode (h : i.wf c = true) :
    payloadError c (formatOf i.opcode) (encode i).word (encode i).payload = none := by
  cases i with
  | sendData p r | writePixels p r =>
    obtain ⟨hlen, hmax⟩ : p.length < 2 ^ 24 ∧ p.length ≤ c.payloadMax := by simpa [Instr.wf, payloadFits] using h
    have hfield : (p.length * 2 ^ 32 + r.toNat) / 2 ^ 32 % 2 ^ 24 = p.length := by omega
    refine (payloadError_data_iff _ _ _).2 ?_
    rw [slice_encode _ (by decide), operandFields, hfield]
    exact ⟨rfl, hmax⟩
  | _ => rfl

/-- A field that holds an operand is read back as that operand. -/
theorem ofNat_slice_encode {lo n : Nat} {b : BitVec n} (hn : lo + n ≤ 56)
    (hb : operandFields i / 2 ^ lo % 2 ^ n = b.toNat) : BitVec.ofNat n (slice (encode i).word lo n) = b := by
  rw [slice_encode i hn, hb, BitVec.ofNat_toNat, BitVec.setWidth_eq]

theorem flag_slice_encode {lo : Nat} {b : Bool} (hn : lo + 1 ≤ 56)
    (hb : operandFields i / 2 ^ lo % 2 ^ 1 = b.toNat) : (slice (encode i).word lo 1 == 1) = b := by
  rw [slice_encode i hn, hb]
  cases b <;> rfl

/-- The operands of a request are read back from its own operand fields (30_encoding.md R91, R92). -/
theorem operandsOf_encode (i : Instr) : operandsOf i.opcode (encode i).word (encode i).payload = i := by
  cases i with
  | sendCmd b =>
    exact congrArg Instr.sendCmd (ofNat_slice_encode (by decide) (by simp only [operandFields]; omega))
  | sendData p r =>
    exact congrArg (Instr.sendData p) (ofNat_slice_encode (by decide) (by simp only [operandFields]; omega))
  | writePixels p r =>
    exact congrArg (Instr.writePixels p) (ofNat_slice_encode (by decide) (by simp only [operandFields]; omega))
  | setWindow x y wd ht =>
    simp only [operandsOf, Instr.opcode, Instr.setWindow.injEq]
    refine ⟨?_, ?_, ?_, ?_⟩
    all_goals exact ofNat_slice_encode (by decide) (by simp only [operandFields]; omega)
  | exAddBit b =>
    exact congrArg Instr.exAddBit (flag_slice_encode (by decide) (by
      have := b.toNat_lt
      simp only [operandFields]
      omega))
  | exAddNoise two a b =>
    have htwo := two.toNat_lt
    simp only [operandsOf, Instr.opcode, Instr.exAddNoise.injEq]
    refine ⟨flag_slice_encode (by decide) ?_, ofNat_slice_encode (by decide) ?_, ofNat_slice_encode (by decide) ?_⟩
    all_goals simp only [operandFields]; omega
  | init | displayOn | exNext | exAvailable | exCapacity => rfl

theorem channelError_encode (h : i.wf c = true) : channelError c i.opcode (encode i).word = none := by
  cases i with
  | exAddNoise two a b =>
    obtain ⟨htwo, ha, hb⟩ := Instr.exAddNoise.inj (operandsOf_encode (.exAddNoise two a b))
    refine (channelError_exAddNoise_iff c _).2 ?_
    rw [htwo, ha, hb]
    exact (Bool.and_eq_true _ _).mp h
  | _ => rfl

end

/-- Settles O1: each check passes on the encoding of a well-formed request, and its operands are read back. -/
theorem decodeEncodeRoundTrip : Obligations.DecodeEncodeRoundTrip := by
  intro c i h
  have hop : opcodeOf (slice (encode i).word 56 8) = some i.opcode :=
    (opcodeOf_eq_some_opcode_iff _ i).2 (slice_encode_opcode h)
  exact (decode_eq_ok_iff c _ _ i).2
    ⟨i.opcode, hop, reservedClear_encode i, payloadError_encode h, channelError_encode h, operandsOf_encode i⟩

theorem decode_of_encode_eq {c : Config} {i : Instr} {w : RequestWord} {p : List Byte} (h : i.wf c = true)
    (he : encode i = ⟨w, p⟩) : decode c w p = .ok i := by
  have hd := decodeEncodeRoundTrip c i h
  rwa [he] at hd

/-- Settles O5: each word is the encoding of its request. -/
theorem decodeReadsTheSpecsWords : Obligations.DecodeReadsTheSpecsWords := by
  refine ⟨?_, ?_, ?_, ?_, ?_, ?_, ?_, ?_, ?_, ?_, ?_, ?_, ?_, ?_⟩
  all_goals exact decode_of_encode_eq (by decide) (by decide)

/-! ### What does not decode -/

section
open Machine

theorem opcodeOf_eq_none {n : Nat}
    (h : n ∉ [0x01, 0x02, 0x03, 0x04, 0x05, 0x06, 0x10, 0x11, 0x12, 0x13, 0x14]) : opcodeOf n = none := by
  cases ho : opcodeOf n with
  | none => rfl
  | some op =>
    refine absurd ?_ h
    obtain h | h | h | h | h | h | h | h | h | h | h := (opcodeOf_eq_some_iff n op).1 ho
    all_goals rw [h.1]; decide

/-- Settles O6: no opcode is found, before any other check; and the map's entries are counted. -/
theorem reservedOpcodesAreIllegal : Obligations.ReservedOpcodesAreIllegal :=
  ⟨fun _ _ _ h => by rw [decode, opcodeOf_eq_none h], by decide +kernel⟩

/-- The table of 30_encoding.md R91 by bit numbers is the formats' reserved ranges, and an unused second channel. -/
theorem reservedBit_iff {n : Nat} {op : Opcode} (h : opcodeOf n = some op) (x j : Nat) : reservedBit n x j = true ↔
    ((reservedRange (formatOf op)).1 ≤ j ∧ j < (reservedRange (formatOf op)).1 + (reservedRange (formatOf op)).2) ∨
      (op = .exAddNoise ∧ x = 0 ∧ j ≤ 7) := by
  obtain ⟨rfl, rfl⟩ | ⟨rfl, rfl⟩ | ⟨rfl, rfl⟩ | ⟨rfl, rfl⟩ | ⟨rfl, rfl⟩ | ⟨rfl, rfl⟩ | ⟨rfl, rfl⟩ | ⟨rfl, rfl⟩ |
    ⟨rfl, rfl⟩ | ⟨rfl, rfl⟩ | ⟨rfl, rfl⟩ := (opcodeOf_eq_some_iff n op).1 h
  all_goals simp [reservedBit, formatOf, reservedRange, Nat.lt_succ_iff (n := 55)]

/-- Settles O7: a reserved bit lies in its format's reserved range, which the reserved-bit check wants clear, or in the
second channel, which the channel check wants clear without `XOR`. -/
theorem reservedBitsAreIllegal : Obligations.ReservedBitsAreIllegal := by
  intro c w p j hj hset
  refine decode_error_of_ne_ok c w p fun i hi => ?_
  obtain ⟨op, hop, hres, -, hch, -⟩ := (decode_eq_ok_iff c w p i).1 hi
  have hclear : w.getLsbD j = false := by
    obtain ⟨hlo, hhi⟩ | ⟨rfl, hxor, hj⟩ := (reservedBit_iff hop _ j).1 hj
    · exact getLsbD_eq_false_of_slice_eq_zero ((reservedClear_iff _ w).1 hres) hlo hhi
    · obtain ⟨-, hB⟩ := (channelError_exAddNoise_iff c w).1 hch
      have hzero := ((secondChannelValid_slice_iff c w).1 hB).1 hxor
      exact getLsbD_eq_false_of_slice_eq_zero hzero (Nat.zero_le j) (by omega)
  rw [hclear] at hset
  exact Bool.false_ne_true hset

/-- Settles O8: a word that decodes passes the payload check of its format and the channel check. -/
theorem badPayloadsAndChannelsAreIllegal : Obligations.BadPayloadsAndChannelsAreIllegal := by
  intro c w p
  refine ⟨fun hop hbad => ?_, fun h02 h04 hp => ?_, fun hop hbad => ?_⟩
  all_goals
    refine decode_error_of_ne_ok c w p fun i hi => ?_
    obtain ⟨op, hmap, -, hpay, hch, -⟩ := (decode_eq_ok_iff c w p i).1 hi
  · have hdata : formatOf op = .data := by
      obtain hop | hop := hop
      all_goals rw [hop] at hmap; cases hmap; rfl
    rw [hdata] at hpay
    obtain ⟨hlen, hmax⟩ := (payloadError_data_iff c w p).1 hpay
    omega
  · have hdata : formatOf op ≠ .data := fun hf => by
      obtain rfl | rfl := (formatOf_eq_data_iff op).1 hf
      · exact h02 ((opcodeOf_eq_some_opcode_iff _ (.sendData [] 0)).1 hmap)
      · exact h04 ((opcodeOf_eq_some_opcode_iff _ (.writePixels [] 0)).1 hmap)
    exact hp ((payloadError_iff_of_ne_data hdata c w p).1 hpay)
  · rw [hop] at hmap
    cases hmap
    obtain ⟨hA, hsecond⟩ := (channelError_exAddNoise_iff c w).1 hch
    obtain ⟨hzero, hB⟩ := (secondChannelValid_slice_iff c w).1 hsecond
    obtain ⟨hxor, hne⟩ | hnA | ⟨hxor, hnB⟩ := hbad
    · exact hne (hzero hxor)
    · exact hnA ((channelValid_iff c _).1 hA)
    · exact hnB ((channelValid_iff c _).1 (hB hxor))

end
end Sys2Proof

/-! PROOF. Fault entry (60_exceptions.md R212) and the port's refusal of a request that does not decode
(30_encoding.md R99). -/

namespace Sys2Proof.Machine

theorem faultResponse_eq (f : FaultCode) : faultResponse f = f.code.setWidth 32 <<< 28 := by cases f <;> rfl

@[simp] theorem respValid_faultResponse (f : FaultCode) : respValid (faultResponse f) = false := by cases f <;> rfl

@[simp] theorem respValue_faultResponse (f : FaultCode) : respValue (faultResponse f) = 0 := by cases f <;> rfl

/-- Settles O11: the response of a fault, read back field by field. -/
theorem faultEntryWritesOnlyItsRegisters : Obligations.FaultEntryWritesOnlyItsRegisters := fun f s =>
  ⟨by rw [State.raise, faultResponse_eq], respStatus_faultResponse f, respValid_faultResponse f,
    respValue_faultResponse f⟩

/-- The open port of an idle block takes the oldest request (20_memory.md R64). -/
theorem step_eq_acceptRequest {s : State} {r : Request} {rs : List Request} (hq : s.seq = .idle) (hf : s.fault = .none)
    (hr : s.resetDue = false) (hp : s.port = r :: rs) : step s = ({ s with port := rs } : State).acceptRequest r := by
  have hopen : s.portOpen = true := by rw [State.portOpen, hf, hr]; rfl
  rw [step_of_idle (port := s.port) hq, State.idleStep, if_pos hopen, hp]

/-- Fault entry in an idle block leaves the sequencer as it is. -/
theorem State.raise_of_idle {s : State} (hq : s.seq = .idle) (f : FaultCode) :
    s.raise f = { s with fault := f, resp := faultResponse f } := by
  rw [State.raise, ← hq]

/-- Settles O10: the port takes the request, and its refusal is fault entry. -/
theorem illegalRequestOnlyFaults : Obligations.IllegalRequestOnlyFaults := by
  intro s r rs e hq hf hr hp hd
  rw [step_eq_acceptRequest hq hf hr hp]
  simp only [State.acceptRequest, hd]
  exact congrArg Host.Outcome.next (State.raise_of_idle (s := { s with port := rs }) hq .illegalRequest)

end Sys2Proof.Machine

/-! PROOF. The framer's checks (40_framer.md R121, R129): they come before any event, and a request whose checks pass
takes no fault. With them the primitives that each request performs, and what they leave unchanged (R120). -/

namespace Sys2Proof.Machine

/-! ### The primitives of a request -/

/-- The primitives of the two procedures `cmd` and `data`: bus events and completion waits (40_framer.md R122, R124). -/
def Prim.isBus : Prim → Bool
  | .emit _ => true
  | .wait   => true
  | _       => false

/-- The primitives of the framer's pseudocode (40_framer.md). -/
def Prim.isFramer : Prim → Bool
  | .checkReady | .checkUninit | .checkWindow _ _ _ _ | .emit _ | .wait | .setReady | .respond _ _ => true
  | .addBit _ | .readNoise _ | .addLocalBit | .takeNext | .readAvailable | .readCapacity => false

@[simp] theorem cmd_all_isBus (c : Byte) : (cmd c).all Prim.isBus = true := rfl

@[simp] theorem data_all_isBus (bytes : List Byte) (r : Nat) : (data bytes r).all Prim.isBus = true := by
  simp [data, repetitions_eq, dataByte, Prim.isBus]

theorem Prim.isFramer_of_isBus {p : Prim} (h : p.isBus = true) : p.isFramer = true := by
  cases p with
  | emit e => rfl
  | wait => rfl
  | _ => cases h

theorem all_isFramer_of_all_isBus {ps : List Prim} (h : ps.all Prim.isBus = true) : ps.all Prim.isFramer = true :=
  List.all_eq_true.2 fun p hp => Prim.isFramer_of_isBus (List.all_eq_true.1 h p hp)

/-- A framer request performs framer primitives only (40_framer.md R120). -/
theorem program_all_isFramer (s : State) {i : Instr} (hi : isFramer i = true) :
    (s.program i).all Prim.isFramer = true := by
  have hcmd (c : Byte) : (cmd c).all Prim.isFramer = true := all_isFramer_of_all_isBus (cmd_all_isBus c)
  have hdata (l : List Byte) (r : Nat) : (data l r).all Prim.isFramer = true :=
    all_isFramer_of_all_isBus (data_all_isBus l r)
  cases i with
  | exAddBit | exAddNoise | exNext | exAvailable | exCapacity => cases hi
  | _ =>
    simp [State.program, progSendCmd, progSendData, progSetWindow, progWritePixels, progInit, progDisplayOn, hcmd, hdata,
      Prim.isFramer]

/-- An extractor request emits no event and awaits no channel (41_entropy.md R160). -/
theorem program_all_not_isBus (s : State) {i : Instr} (hi : isFramer i = false) :
    (s.program i).all (fun p => !p.isBus) = true := by
  cases i with
  | exAddNoise two chA chB => cases two <;> rfl
  | exAddBit | exNext | exAvailable | exCapacity => rfl
  | _ => cases hi

/-! ### What the primitives leave unchanged -/

/-- No framer primitive writes the extractor, the configuration, the noise source, the tick flag or the host's queue
(40_framer.md R120). -/
theorem Prim.perform_of_isFramer {p : Prim} (hp : p.isFramer = true) (s : State) :
    (s.perform p).ex = s.ex ∧ (s.perform p).cfg = s.cfg ∧ (s.perform p).noise = s.noise ∧
    (s.perform p).tickDeadline = s.tickDeadline ∧ (s.perform p).port = s.port := by
  cases p with
  | checkReady => rw [State.perform]; split <;> exact ⟨rfl, rfl, rfl, rfl, rfl⟩
  | checkUninit => rw [State.perform]; split <;> exact ⟨rfl, rfl, rfl, rfl, rfl⟩
  | checkWindow => rw [State.perform]; split <;> exact ⟨rfl, rfl, rfl, rfl, rfl⟩
  | emit e => simp [State.perform]
  | wait | setReady | respond => exact ⟨rfl, rfl, rfl, rfl, rfl⟩
  | _ => cases hp

/-- A bus primitive takes no fault. -/
theorem Prim.perform_fault_of_isBus {p : Prim} (hp : p.isBus = true) (s : State) : (s.perform p).fault = s.fault := by
  cases p with
  | emit e => simp [State.perform]
  | wait => rfl
  | _ => cases hp

/-- Only bus primitives write the log (20_memory.md R56). -/
theorem Prim.perform_busLog_of_not_isBus {p : Prim} (hp : p.isBus = false) (s : State) :
    (s.perform p).busLog = s.busLog := by
  cases p with
  | checkReady => rw [State.perform]; split <;> rfl
  | checkUninit => rw [State.perform]; split <;> rfl
  | checkWindow => rw [State.perform]; split <;> rfl
  | takeNext => rw [State.perform, State.takeNext]; split <;> rfl
  | emit | wait => cases hp
  | _ => rfl

/-- An extractor request leaves the log as it is (41_entropy.md R160). -/
theorem exec_busLog_of_not_isFramer {i : Instr} {s t : State} (hi : isFramer i = false) (hn : NoReset s)
    (h : exec i s = .next t) : t.busLog = s.busLog := by
  rw [exec_eq_run] at h
  cases h
  refine run_keeps (Q := fun u => u.busLog = s.busLog)
    (fun _ _ same hu => (same.view_eq State.busLog fun _ _ => rfl).trans hu) _ (fun p hp u hu => ?_) _
    (FramerState.begin hn i).noReset (by simp) (by simp)
  have hbus := List.all_eq_true.1 (program_all_not_isBus _ hi) p hp
  exact (Prim.perform_busLog_of_not_isBus (by simpa using hbus) u).trans hu

/-- With nothing scheduled, what the primitives of a list keep, and the steps that fairness grants them, its run keeps. -/
theorem run_keeps_of_unscheduled {Q : State → Prop} (ps : List Prim)
    (hperform : ∀ p ∈ ps, ∀ s, Q s → Q (s.perform p)) (hgrant : ∀ p ∈ ps, ∀ s t, s.grant p = some t → Q s → Q t)
    (s : State) (he : s.env = []) (hs : Q s) : Q (s.run ps) := by
  induction ps generalizing s with
  | nil => exact hs
  | cons p ps ih =>
    have goes_on (t : State) (ht : Q t) (het : t.env = []) :
        Q (if (t.perform p).seq.isIdle then t.perform p else (t.perform p).run ps) := by
      have hp := hperform p List.mem_cons_self t ht
      split
      · exact hp
      · refine ih (fun q hq => hperform q (List.mem_cons_of_mem p hq)) (fun q hq => hgrant q (List.mem_cons_of_mem p hq))
          _ ?_ hp
        rw [(PrimStep.of_perform p t).env_eq, het]
    rw [State.run, he, State.awaitFor]
    by_cases hen : s.enabled p = true
    · rw [if_pos hen]; exact goes_on s hs he
    · rw [if_neg hen]
      cases hg : s.grant p with
      | some t => exact goes_on t (hgrant p List.mem_cons_self s t hg hs) ((State.grant_env hg).trans he)
      | none => exact hs

/-- The step granted to a framer primitive is the channel's (60_exceptions.md R225). -/
theorem Prim.grant_of_isFramer {p : Prim} (hp : p.isFramer = true) {s t : State} (h : s.grant p = some t) :
    t = s.clearBusy := by
  cases p with
  | wait =>
    rw [State.grant] at h
    split at h
    · exact (Option.some.inj h).symm
    · cases h
  | readNoise => cases hp
  | _ => cases h

/-- Settles O32: the primitives of the framer's pseudocode, and the moves between them, by what each leaves unchanged. -/
theorem framerLeavesTheExtractorAlone : Obligations.FramerLeavesTheExtractorAlone := by
  intro i s t hi hn h
  rw [exec_eq_run] at h
  cases h
  have hprog := List.all_eq_true.1 (program_all_isFramer (s.begin i) hi)
  obtain ⟨hex, hcfg⟩ := run_keeps (Q := fun u => u.ex = s.ex ∧ u.cfg = s.cfg)
    (fun _ _ same ⟨hex, hcfg⟩ => ⟨(same.view_eq State.ex fun _ _ => rfl).trans hex,
      (same.view_eq State.cfg fun _ _ => rfl).trans hcfg⟩) _
    (fun p hp u ⟨hex, hcfg⟩ => by
      obtain ⟨pex, pcfg, -⟩ := Prim.perform_of_isFramer (hprog p hp) u
      exact ⟨pex.trans hex, pcfg.trans hcfg⟩)
    (s.begin i) (FramerState.begin hn i).noReset (by simp) ⟨by simp, by simp⟩
  refine ⟨hex, hcfg, fun he => ?_⟩
  refine run_keeps_of_unscheduled
    (Q := fun u => u.noise = s.noise ∧ u.tickDeadline = s.tickDeadline ∧ u.port = s.port) _
    (fun p hp u ⟨hnoise, htick, hport⟩ => ?_) (fun p hp u v hg hu => ?_) (s.begin i) (by simpa using he)
    ⟨by simp, by simp, by simp⟩
  · obtain ⟨-, -, pnoise, ptick, pport⟩ := Prim.perform_of_isFramer (hprog p hp) u
    exact ⟨pnoise.trans hnoise, ptick.trans htick, pport.trans hport⟩
  · rw [Prim.grant_of_isFramer (hprog p hp) hg]
    exact hu

/-! ### The checks -/

/-- A check faults or goes on. -/
theorem State.run_check {p : Prim} {f : FaultCode} {bad : Prop} [Decidable bad] {s : State}
    (he : s.enabled p = true) (hp : s.perform p = if bad then s.raise f else s.advance) (hb : s.seq.isIdle = false)
    (ps : List Prim) : s.run (p :: ps) = if bad then s.raise f else s.advance.run ps := by
  by_cases h : bad
  · rw [if_pos h] at hp ⊢
    rw [State.run_cons_done _ _ _ he (by rw [hp]; rfl), hp]
  · rw [if_neg h] at hp ⊢
    rw [State.run_cons_more _ _ _ he (by simpa [hp] using hb), hp]

/-- The check of every framer request but INIT (40_framer.md R121). -/
theorem State.run_checkReady {s : State} (hb : s.seq.isIdle = false) (ps : List Prim) :
    s.run (.checkReady :: ps) = if s.frInit = .uninit then s.raise .notReady else s.advance.run ps :=
  State.run_check rfl rfl hb ps

/-- The check of INIT (40_framer.md R121, R140). -/
theorem State.run_checkUninit {s : State} (hb : s.seq.isIdle = false) (ps : List Prim) :
    s.run (.checkUninit :: ps) = if s.frInit = .ready then s.raise .alreadyInit else s.advance.run ps :=
  State.run_check rfl rfl hb ps

/-- The window check of SET_WINDOW (40_framer.md R129). -/
theorem State.run_checkWindow {s : State} (hb : s.seq.isIdle = false) (x y w h : Nat) (ps : List Prim) :
    s.run (.checkWindow x y w h :: ps) =
      if ¬ windowOk s.cfg x y w h = true then s.raise .invalidWindow else s.advance.run ps :=
  State.run_check rfl (by rw [ite_not]; rfl) hb ps

/-- A framer request but INIT faults in an UNINIT block as soon as the port has accepted it (40_framer.md R121). -/
theorem exec_of_uninit {i : Instr} {s : State} (hi : isFramer i = true) (hne : i ≠ .init) (hu : s.frInit = .uninit) :
    exec i s = .next ((s.begin i).raise .notReady) := by
  have starts : ∃ ps, (s.begin i).program i = .checkReady :: ps := by
    cases i with
    | init => exact absurd rfl hne
    | exAddBit | exAddNoise | exNext | exAvailable | exCapacity => cases hi
    | _ => exact ⟨_, rfl⟩
  obtain ⟨ps, hps⟩ := starts
  rw [exec_eq_run, hps, State.run_checkReady (by simp), if_pos (by simpa using hu)]

/-- INIT faults in a READY block as soon as the port has accepted it (40_framer.md R121). -/
theorem exec_init_of_ready {s : State} (hr : s.frInit = .ready) :
    exec .init s = .next ((s.begin .init).raise .alreadyInit) := by
  have starts : ∃ ps, (s.begin .init).program .init = .checkUninit :: ps := ⟨_, rfl⟩
  obtain ⟨ps, hps⟩ := starts
  rw [exec_eq_run, hps, State.run_checkUninit (by simp), if_pos (by simpa using hr)]

/-- SET_WINDOW of a bad window faults in a READY block before any event, and with a good one it goes on to its two
address sets (40_framer.md R128, R129). -/
theorem exec_setWindow_of_ready {s : State} (hr : s.frInit = .ready) (x y w h : BitVec 12) :
    exec (.setWindow x y w h) s = .next
      (if ¬ windowOk s.cfg x.toNat y.toNat w.toNat h.toNat = true then
        { s with fault := .invalidWindow, resp := faultResponse .invalidWindow, seq := .idle }
      else (s.begin (.setWindow x y w h)).advance.advance.run
        (addressSet s.cfg.cmdCaset (wireRange s.cfg.marginX x.toNat w.toNat) ++
          (addressSet s.cfg.cmdRaset (wireRange s.cfg.marginY y.toNat h.toNat) ++ [.respond false 0]))) := by
  rw [exec_eq_run, State.program, progSetWindow_eq, State.run_checkReady (by simp), if_neg (by simp [hr]),
    State.run_checkWindow (by simp)]
  rfl

/-- Settles O22: each request's first primitive is its check, and the payload was loaded before it. -/
theorem readyCheckComesFirst : Obligations.ReadyCheckComesFirst :=
  ⟨fun _ hu =>
    ⟨fun b => exec_of_uninit (i := .sendCmd b) rfl Instr.noConfusion hu,
      fun p r => exec_of_uninit (i := .sendData p r) rfl Instr.noConfusion hu,
      fun x y w h => exec_of_uninit (i := .setWindow x y w h) rfl Instr.noConfusion hu,
      fun p r => exec_of_uninit (i := .writePixels p r) rfl Instr.noConfusion hu,
      exec_of_uninit (i := .displayOn) rfl Instr.noConfusion hu⟩,
    fun _ hr => exec_init_of_ready hr⟩

/-- The two address sets and the response take no fault, whatever the channel does. -/
theorem State.run_addressSets_fault {s : State} (hn : NoReset s) (hb : s.seq.isIdle = false) (a b : Byte)
    (m n : Nat × Nat) : (s.run (addressSet a m ++ (addressSet b n ++ [.respond false 0]))).fault = s.fault := by
  refine run_keeps (Q := fun u => u.fault = s.fault)
    (fun _ _ same hu => (same.view_eq State.fault fun _ _ => rfl).trans hu) _ (fun p hp u hu => ?_) s hn hb rfl
  have hall : (addressSet a m ++ addressSet b n).all Prim.isBus = true := by simp [addressSet]
  rw [← List.append_assoc, List.mem_append, List.mem_singleton] at hp
  rcases hp with hp | rfl
  · exact (Prim.perform_fault_of_isBus (List.all_eq_true.1 hall p hp) u).trans hu
  · exact hu

/-- Settles O23: the check is `windowOk`, and nothing after it faults. -/
theorem windowCheckRefusesExactlyBadWindows : Obligations.WindowCheckRefusesExactlyBadWindows := by
  intro s x y w h hr
  refine ⟨fun hbad => ?_, fun hw hh hx hy hn => ?_⟩
  · have hw : ¬ windowOk s.cfg x.toNat y.toNat w.toNat h.toNat = true := by
      rw [windowOk_iff]
      omega
    rw [exec_setWindow_of_ready hr, if_pos hw]
    rfl
  · rw [exec_setWindow_of_ready hr, if_neg (not_not.2 ((windowOk_iff _ _ _ _ _).2 ⟨hw, hh, hx, hy⟩))]
    have begun := (FramerState.begin hn (.setWindow x y w h)).advance.advance
    exact ⟨_, rfl, (State.run_addressSets_fault begun.noReset begun.seq _ _ _ _).trans begun.fault⟩

end Sys2Proof.Machine

/-! PROOF. Framer requests to their ends (40_framer.md R122-R144): on a fair channel a request in progress is followed
through its pseudocode, procedure by procedure, to the state that it ends in. -/

namespace Sys2Proof.Machine

/-! ### A request in progress on a fair channel -/

/-- A request in progress in state `u` on a fair channel, wherever SEQ stands, that has `ps` left of its pseudocode ends in
`v`, but for what scheduled moves of other agents did meanwhile. -/
def EndsAs (ps : List Prim) (u v : State) : Prop :=
  u.chanFair = true → ∀ (t : State) (q : Sequencer), q.isIdle = false → Like t { u with seq := q } → Like (t.run ps) v

section
variable {p : Prim} {ps : List Prim} {s t u u' v : State}

/-- A primitive that awaits nothing. -/
theorem EndsAs.cons (hp : ∀ t : State, t.enabled p = true) (hf : u'.chanFair = u.chanFair)
    (hstep : ∀ (t : State) (q : Sequencer), Like t { u with seq := q } → Like (t.perform p) { u' with seq := q.succ })
    (h : EndsAs ps u' v) : EndsAs (p :: ps) u v := by
  intro hfair t q hq l
  have hnext := hstep t q l
  have hbusy : (t.perform p).seq.isIdle = false := by rw [hnext.seq_eq]; simpa using hq
  rw [State.run_cons_more p ps t (hp t) hbusy]
  exact h (hf.trans hfair) _ _ (by simpa using hq) hnext

/-- A check that passes. -/
theorem EndsAs.check (hp : ∀ t : State, t.enabled p = true)
    (hpass : ∀ t : State, t.frInit = u.frInit → t.cfg = u.cfg → t.perform p = t.advance) (h : EndsAs ps u v) :
    EndsAs (p :: ps) u v := by
  refine .cons hp rfl (fun t q l => ?_) h
  obtain ⟨hcfg, -, hinit, -⟩ := (blockView_eq_iff _ _).1 l.1
  rw [hpass t hinit hcfg]
  exact l.advance

/-- The check of a request but INIT, in a ready block (40_framer.md R121). -/
theorem EndsAs.checkReady (hr : u.frInit = .ready) (h : EndsAs ps u v) : EndsAs (.checkReady :: ps) u v :=
  .check (fun _ => rfl) (fun _ hinit _ => if_neg (by rw [hinit, hr]; exact FrInit.noConfusion)) h

/-- The check of INIT, in an UNINIT block (40_framer.md R121). -/
theorem EndsAs.checkUninit (hu : u.frInit = .uninit) (h : EndsAs ps u v) : EndsAs (.checkUninit :: ps) u v :=
  .check (fun _ => rfl) (fun _ hinit _ => if_neg (by rw [hinit, hu]; exact FrInit.noConfusion)) h

/-- The window check, for a good window (40_framer.md R129). -/
theorem EndsAs.checkWindow {x y wd ht : Nat} (hw : windowOk u.cfg x y wd ht = true) (h : EndsAs ps u v) :
    EndsAs (.checkWindow x y wd ht :: ps) u v :=
  .check (fun _ => rfl) (fun _ _ hcfg => if_pos (by rw [hcfg]; exact hw)) h

/-- A bus event (20_memory.md R56). -/
theorem EndsAs.emit (e : BusEvent) (h : EndsAs ps (u.emit e) v) : EndsAs (.emit e :: ps) u v := by
  refine .cons (fun _ => rfl) (State.emit_chanFair e u) (fun t q l => ?_) h
  have hu : (({ u with seq := q } : State).emit e).advance = { u.emit e with seq := q.succ } := by cases e <;> rfl
  exact hu ▸ (l.emit e).advance

/-- A delay (20_memory.md R62). -/
theorem EndsAs.delay (n : Nat) (h : EndsAs ps { u with busLog := u.busLog ++ [.dly n] } v) :
    EndsAs (.emit (.dly n) :: ps) u v := .emit _ h

/-- The panel reset line is raised, which resets the panel (20_memory.md R61, R80). -/
theorem EndsAs.raiseRst (h : EndsAs ps { u with
    busLog := u.busLog ++ [.rst true], lineRst := true, rx := u.rx.panelReset } v) :
    EndsAs (.emit (.rst true) :: ps) u v := .emit _ h

/-- The panel reset line is lowered (20_memory.md R61). -/
theorem EndsAs.lowerRst (h : EndsAs ps { u with busLog := u.busLog ++ [.rst false], lineRst := false } v) :
    EndsAs (.emit (.rst false) :: ps) u v := .emit _ h

/-- The framer is ready (40_framer.md R140). -/
theorem EndsAs.setReady (h : EndsAs ps { u with frInit := .ready } v) : EndsAs (.setReady :: ps) u v :=
  .cons (u' := { u with frInit := .ready }) (fun _ => rfl) rfl (fun _ _ l => l.setReady.advance) h

/-- The response (30_encoding.md R101). -/
theorem EndsAs.respond (valid : Bool) (b : Byte) : EndsAs [.respond valid b] u (u.respond valid b) := by
  intro _ t q _ l
  rw [State.run_respond]
  exact l.respond valid b

/-- `cmd(c)`: its six events, and the byte received as a command (40_framer.md R122). -/
theorem EndsAs.command (c : Byte)
    (h : EndsAs ps { u with
      busLog := u.busLog ++ cmdEvents c
      lineCmd := true
      lineCs := false
      chBusy := false
      rx := Receiver.command u.cfg c u.rx } v) : EndsAs (cmd c ++ ps) u v := by
  intro hf t q hq l
  obtain ⟨t', hrun, hlike⟩ := l.run_command c ps hf hq
  rw [hrun]
  exact h hf t' _ (by simpa using hq) hlike

/-- `data(L, r)`: its events, and the bytes received (40_framer.md R124). -/
theorem EndsAs.bytes (bytes : List Byte) (r : Nat)
    (h : EndsAs ps { u with
      busLog := u.busLog ++ dataEvents bytes r
      lineCmd := false
      lineCs := if bytes = [] then u.lineCs else false
      chBusy := false
      rx := Receiver.dataAll u.cfg (sentBytes bytes r) u.rx } v) : EndsAs (data bytes r ++ ps) u v := by
  intro hf t q hq l
  obtain ⟨t', hrun, hlike⟩ := l.run_data bytes r ps hf hq
  obtain ⟨q', hafter, hq'⟩ := State.afterData_eq bytes r { u with seq := q }
  simp only [sentBytes_eq_nil] at hafter
  rw [hrun]
  exact h hf t' q' (hq'.trans hq) (hafter ▸ hlike)

/-- A command and its data bytes: the controller is deselected after either. -/
theorem EndsAs.commandBytes (c : Byte) (bytes : List Byte) (r : Nat)
    (h : EndsAs ps { u with
      busLog := u.busLog ++ cmdEvents c ++ dataEvents bytes r
      lineCmd := false
      lineCs := false
      chBusy := false
      rx := Receiver.dataAll u.cfg (sentBytes bytes r) (Receiver.command u.cfg c u.rx) } v) :
    EndsAs (cmd c ++ (data bytes r ++ ps)) u v := by
  refine .command c (.bytes bytes r ?_)
  rw [ite_self]
  exact h

/-- Bytes sent once. -/
theorem sentBytes_zero (bytes : List Byte) : sentBytes bytes 0 = bytes := List.append_nil bytes

/-- An address-set command and its four data bytes (40_framer.md R128). -/
theorem EndsAs.addressSet (c : Byte) (range : Nat × Nat)
    (h : EndsAs ps { u with
      busLog := u.busLog ++ cmdEvents c ++ dataEvents (rangeBytes range) 0
      lineCmd := false
      lineCs := false
      chBusy := false
      rx := Receiver.dataAll u.cfg (rangeBytes range) (Receiver.command u.cfg c u.rx) } v) :
    EndsAs (addressSet c range ++ ps) u v := by
  rw [Machine.addressSet, List.append_assoc]
  refine .commandBytes c (rangeBytes range) 0 ?_
  rw [sentBytes_zero]
  exact h

/-- A request whose pseudocode ends in `v` from the port's acceptance completes so. -/
theorem CompletesAs.of_endsAs {i : Instr} (hf : s.chanFair = true) (hn : NoReset s)
    (h : EndsAs ((s.begin i).program i) (s.begin i) v) (henv : v.env = s.env) : CompletesAs i s v := by
  have hbegin : Like (s.begin i) { s.begin i with seq := .busy i 0 false } := by
    rw [← State.begin_seq i s]
    exact .refl (FramerState.begin hn i).noReset
  obtain ⟨hview, -, hsame⟩ := h ((State.begin_chanFair i s).trans hf) _ _ rfl hbegin
  exact ⟨_, exec_eq_run i s, hview, fun he => hsame (henv.trans he)⟩

/-- A request but INIT, in a ready block. -/
theorem CompletesAs.of_ready {i : Instr} (hr : s.frInit = .ready) (hf : s.chanFair = true) (hn : NoReset s)
    (hprog : (s.begin i).program i = .checkReady :: ps) (h : EndsAs ps (s.begin i) v) (henv : v.env = s.env) :
    CompletesAs i s v :=
  .of_endsAs hf hn (hprog ▸ .checkReady ((State.begin_frInit i s).trans hr) h) henv

end

/-! ### The six requests -/

/-- Settles O24: the check, `cmd`, the response. -/
theorem sendCmdCompletes : Obligations.SendCmdCompletes := by
  intro s b hr hf hn
  exact .of_ready hr hf hn rfl (.command b (.respond false 0)) rfl

/-- SEND_DATA's pseudocode, its payload read back as the port loaded it (40_framer.md R125). -/
theorem program_sendData (s : State) (p : List Byte) (r : BitVec 32) :
    (s.begin (.sendData p r)).program (.sendData p r) = .checkReady :: (data p r.toNat ++ [Prim.respond false 0]) := by
  have hp : (s.begin (.sendData p r)).payload = p := frontBytes_loadBytes p s.plBuf
  rw [State.program, hp, progSendData]

/-- Settles O25: the check, `data`, the response; the load byte by byte. -/
theorem sendDataCompletes : Obligations.SendDataCompletes := by
  intro s p r hr hf hn
  refine ⟨.of_ready hr hf hn (program_sendData s p r) (.bytes p r.toNat (.respond false 0)) rfl,
    fun i => ?_⟩
  rw [byteAt_loadBytes, byteAt_eq_getD p]

/-- Settles O26: the checks, the columns, the rows, the response. -/
theorem setWindowCompletes : Obligations.SetWindowCompletes := by
  rintro s x y w h hr hf hn hw hh hx hy _ _ rfl rfl
  have hgood : windowOk (s.begin (.setWindow x y w h)).cfg x.toNat y.toNat w.toNat h.toNat = true :=
    (windowOk_iff s.cfg _ _ _ _).2 ⟨hw, hh, hx, hy⟩
  exact .of_ready hr hf hn (progSetWindow_eq s.cfg _ _ _ _)
    (.checkWindow hgood (.addressSet _ _ (.addressSet _ _ (.respond false 0)))) rfl

/-- WRITE_PIXELS' pseudocode, its payload read back as the port loaded it (40_framer.md R133). -/
theorem program_writePixels (s : State) (p : List Byte) (r : BitVec 32) :
    (s.begin (.writePixels p r)).program (.writePixels p r) =
      .checkReady :: (cmd s.cfg.cmdRamwr ++ (data p r.toNat ++ [Prim.respond false 0])) := by
  have hp : (s.begin (.writePixels p r)).payload = p := frontBytes_loadBytes p s.plBuf
  rw [State.program, hp, State.begin_cfg, progWritePixels, List.append_assoc]

/-- Settles O27: the check, `cmd`, `data`, the response. -/
theorem writePixelsCompletes : Obligations.WritePixelsCompletes := by
  intro s p r hr hf hn
  exact .of_ready hr hf hn (program_writePixels s p r)
    (.commandBytes s.cfg.cmdRamwr p r.toNat (.respond false 0)) rfl

/-- INIT's pseudocode, primitive by primitive but for its procedures (40_framer.md R140). -/
theorem progInit_eq (c : Config) : progInit c =
    .checkUninit :: .emit (.rst true) :: .emit (.dly c.dRstHold) :: .emit (.rst false) :: .emit (.dly c.dRstSettle) ::
      (cmd c.cmdSlpout ++ Prim.emit (.dly c.dSlpout) :: (cmd c.cmdColmod ++ (data [c.colmodRgb444] 0 ++
        (cmd c.cmdMadctl ++ (data [c.madctlParam] 0 ++ [Prim.setReady, .respond false 0]))))) := by
  simp only [progInit, List.append_assoc, List.cons_append, List.nil_append]

/-- Settles O28: the check, the reset pulse, sleep-out, color mode, memory access control, the response. -/
theorem initCompletes : Obligations.InitCompletes := by
  intro s hu hf hn
  have split_pulse (l : List BusEvent) (a b c d : BusEvent) : l ++ [a, b, c, d] = l ++ [a] ++ [b] ++ [c] ++ [d] := by
    simp
  rw [split_pulse]
  refine .of_endsAs hf hn ?_ rfl
  rw [State.program, progInit_eq]
  exact .checkUninit hu (.raiseRst (.delay _ (.lowerRst (.delay _ (.command _ (.delay _ (.commandBytes _ _ 0
    (.commandBytes _ _ 0 (.setReady (.respond false 0))))))))))

/-- Settles O29: the check, the delay, `cmd`, the response. -/
theorem displayOnCompletes : Obligations.DisplayOnCompletes := by
  intro s hr hf hn
  exact .of_ready hr hf hn rfl (.delay s.cfg.dDispon (.command s.cfg.cmdDispon (.respond false 0))) rfl

end Sys2Proof.Machine

/-! PROOF. What the framer's completions give together (40_framer.md R126, R133): select framing of every event list, and
WRITE_PIXELS as a command followed by data. With them SEND_CMD on a channel that never completes (60_exceptions.md R225). -/

namespace Sys2Proof.Machine

/-! ### What a completed request leaves -/

section
variable {i : Instr} {s t u : State}

theorem CompletesAs.busLog_eq (h : CompletesAs i s u) (hexec : exec i s = .next t) : t.busLog = u.busLog := by
  obtain ⟨t', ht', hview, -⟩ := h
  cases hexec.symm.trans ht'
  obtain ⟨-, -, -, -, -, -, -, -, -, -, -, -, hlog, -⟩ := (blockView_eq_iff _ _).1 hview
  exact hlog

theorem CompletesAs.eq_of_unscheduled (h : CompletesAs i s u) (he : s.env = []) (hexec : exec i s = .next t) :
    t = u := by
  obtain ⟨t', ht', -, hsame⟩ := h
  cases hexec.symm.trans ht'
  exact hsame he

end

/-- Settles O35: the three requests by the states they complete in. -/
theorem writePixelsIsCommandThenData : Obligations.WritePixelsIsCommandThenData := by
  intro s t u v p r hr hf he ht hu hv
  have hn : NoReset s := fun d hd => by simp [he] at hd
  have hdata := sendDataCompletes u p r
  obtain rfl := (sendCmdCompletes s s.cfg.cmdRamwr hr hf hn).eq_of_unscheduled he hu
  obtain rfl := (writePixelsCompletes s p r hr hf hn).eq_of_unscheduled he ht
  obtain rfl := (hdata hr hf hn).1.eq_of_unscheduled he hv
  simp only [ite_self]

/-! ### Select framing -/

/-- Framed lists of events one after the other. -/
theorem selectFramed_append {es : List BusEvent} (h : selectFramed es = true) (es' : List BusEvent) :
    selectFramed (es ++ es') = selectFramed es' := by
  induction es using selectFramed.induct with
  | case1 v es ih => exact ih h
  | case2 => simp_all [selectFramed]
  | case3 => cases h
  | case4 es ih => exact ih h
  | case5 b es ih => exact ih h
  | case6 b es ih => exact ih h
  | case7 n es ih => exact ih h
  | case8 => rfl

theorem selectFramed_cmdEvents (c : Byte) : selectFramed (cmdEvents c) = true := rfl

theorem selectFramed_dataEvents (bytes : List Byte) (r : Nat) : selectFramed (dataEvents bytes r) = true := by
  have each_byte (bs : List Byte) : selectFramed (bs.flatMap byteEvents) = true := by
    induction bs with
    | nil => rfl
    | cons b bs ih => rwa [List.flatMap_cons, selectFramed_append (es := byteEvents b) rfl]
  exact each_byte (sentBytes bytes r)

/-- The log has grown by events that are select-framed (40_framer.md R126). -/
def GrowsFramed (l l' : List BusEvent) : Prop := ∃ es, l' = l ++ es ∧ selectFramed es = true

theorem GrowsFramed.refl (l : List BusEvent) : GrowsFramed l l := ⟨[], (List.append_nil l).symm, rfl⟩

theorem GrowsFramed.append {l l' es : List BusEvent} (h : GrowsFramed l l') (hes : selectFramed es = true) :
    GrowsFramed l (l' ++ es) := by
  obtain ⟨es', rfl, hes'⟩ := h
  exact ⟨es' ++ es, List.append_assoc l es' es, (selectFramed_append hes' es).trans hes⟩

theorem GrowsFramed.command {l l' : List BusEvent} (h : GrowsFramed l l') (c : Byte) :
    GrowsFramed l (l' ++ cmdEvents c) := h.append (selectFramed_cmdEvents c)

theorem GrowsFramed.bytes {l l' : List BusEvent} (h : GrowsFramed l l') (bytes : List Byte) (r : Nat) :
    GrowsFramed l (l' ++ dataEvents bytes r) := h.append (selectFramed_dataEvents bytes r)

/-- A framer request in a ready block on a fair channel: it faults before any event, or completes. -/
theorem exec_growsFramed_of_ready {i : Instr} {s t : State} (hi : isFramer i = true) (hr : s.frInit = .ready)
    (hf : s.chanFair = true) (hn : NoReset s) (h : exec i s = .next t) : GrowsFramed s.busLog t.busLog := by
  have start := GrowsFramed.refl s.busLog
  cases i with
  | exAddBit | exAddNoise | exNext | exAvailable | exCapacity => cases hi
  | sendCmd b =>
    rw [(sendCmdCompletes s b hr hf hn).busLog_eq h]
    exact start.command b
  | sendData p r =>
    rw [(sendDataCompletes s p r hr hf hn).1.busLog_eq h]
    exact start.bytes p r.toNat
  | setWindow x y w ht =>
    by_cases hw : windowOk s.cfg x.toNat y.toNat w.toNat ht.toNat = true
    · obtain ⟨hw1, hh1, hx, hy⟩ := (windowOk_iff _ _ _ _ _).1 hw
      rw [(setWindowCompletes s x y w ht hr hf hn hw1 hh1 hx hy _ _ rfl rfl).busLog_eq h]
      exact (((start.command _).bytes _ 0).command _).bytes _ 0
    · rw [exec_setWindow_of_ready hr, if_pos hw] at h
      cases h
      exact start
  | writePixels p r =>
    rw [(writePixelsCompletes s p r hr hf hn).busLog_eq h]
    exact (start.command _).bytes p r.toNat
  | init =>
    rw [exec_init_of_ready hr] at h
    cases h
    exact start
  | displayOn =>
    rw [(displayOnCompletes s hr hf hn).busLog_eq h]
    exact (start.append rfl).command _

/-- Settles O31: an extractor request has no event, a framer request faults before its first one or has those of its
procedures. -/
theorem everyByteIsFramedBySelect : Obligations.EveryByteIsFramedBySelect := by
  intro i s t hf hn h
  have start := GrowsFramed.refl s.busLog
  cases hi : isFramer i with
  | false => exact exec_busLog_of_not_isFramer hi hn h ▸ start
  | true =>
    cases hr : s.frInit with
    | ready => exact exec_growsFramed_of_ready hi hr hf hn h
    | uninit =>
      by_cases hinit : i = .init
      · subst hinit
        rw [(initCompletes s hr hf hn).busLog_eq h]
        exact ((((((start.append rfl).command _).append rfl).command _).bytes _ 0).command _).bytes _ 0
      · rw [exec_of_uninit hi hinit hr] at h
        cases h
        exact ⟨[], by simp, rfl⟩

/-! ### A channel that never completes -/

/-- An await that nothing ends leaves the request in progress (60_exceptions.md R225, R227). -/
theorem State.run_of_stuckAt {p : Prim} {s : State} (h : s.stuckAt p = true) (ps : List Prim) : s.run (p :: ps) = s := by
  obtain ⟨⟨hen, henv⟩, hgrant⟩ : (s.enabled p = false ∧ s.env = []) ∧ s.grant p = none := by
    simpa [State.stuckAt] using h
  simp [State.run, henv, State.awaitFor, hen, hgrant]

/-- `cmd(c)` on a free channel that never completes: four of its six events (40_framer.md R122). -/
theorem State.run_cmd_of_unfair {s : State} (hb : s.seq.isIdle = false) (hfree : s.chBusy = false) (he : s.env = [])
    (hf : s.chanFair = false) (c : Byte) (ps : List Prim) : s.run (cmd c ++ ps) = { s with
      busLog := s.busLog ++ [.wait, .dc true, .cs true, .tx c]
      lineCmd := true
      lineCs := true
      chBusy := true
      rx := Receiver.command s.cfg c s.rx
      seq := s.seq.succ.succ.succ.succ } := by
  have first_wait (qs : List Prim) : s.run (.wait :: qs) = ((s.emit .wait).advance).run qs :=
    State.run_cons_more _ _ _ (by simp [State.enabled, hfree]) (by simpa [State.perform] using hb)
  rw [cmd]
  simp only [List.cons_append, List.nil_append]
  rw [first_wait, State.run_emit _ _ _ (by simpa using hb), State.run_emit _ _ _ (by simpa using hb),
    State.run_emit _ _ _ (by simpa using hb),
    State.run_of_stuckAt (by simp [State.stuckAt, State.enabled, State.grant, he, hf])]
  simp [State.emit, State.applyEvent, State.advance, Receiver.receive]

/-- Settles O19: the check passes, and `cmd` stops at its second wait. -/
theorem sendCmdStaysInProgressOnAStuckChannel : Obligations.SendCmdStaysInProgressOnAStuckChannel := by
  intro s b hr hfree he hf
  have hprog : (s.begin (.sendCmd b)).program (.sendCmd b) = .checkReady :: (cmd b ++ [.respond false 0]) := rfl
  rw [exec_eq_run, hprog, State.run_checkReady (by simp), if_neg (by simp [hr]),
    State.run_cmd_of_unfair (s := (s.begin (.sendCmd b)).advance) (by simp) hfree he hf]
  rfl

end Sys2Proof.Machine

/-! PROOF. The extractor as a queue (41_entropy.md R161-R164, R170): what `addbit` and a read of the oldest sample do to
it, and the weights that independent bits give the samples. -/

namespace Sys2Proof.Machine

/-! ### The response word (30_encoding.md R101) -/

@[simp] theorem okResponse_false_zero : okResponse false 0 = 0 := rfl

@[simp] theorem respValid_okResponse (valid : Bool) (value : Byte) : respValid (okResponse valid value) = valid := by
  rw [respValid, okResponse, BitVec.getLsbD_append]
  cases valid <;> rfl

@[simp] theorem respValue_okResponse (valid : Bool) (value : Byte) : respValue (okResponse valid value) = value :=
  BitVec.extractLsb'_append_eq_right

/-- A response without VALID is its VALUE (41_entropy.md R171). -/
theorem okResponse_false (value : Byte) : okResponse false value = value.setWidth 32 := by
  refine BitVec.eq_of_toNat_eq ?_
  rw [okResponse, BitVec.toNat_append, BitVec.toNat_setWidth, Nat.mod_eq_of_lt (by omega)]
  simp

/-! ### One bit -/

theorem Extractor.addBit_of_full {k : Nat} {e : Extractor} (h : e.avail = k) (b : Bool) : e.addBit k b = e :=
  if_pos h

/-- `addbit` in its five steps, for the candidate's number (41_entropy.md R161). -/
theorem Extractor.addBit_eq (k : Nat) (b : Bool) (e : Extractor) {v : BitVec 3}
    (hv : v.toNat = (2 * e.cand.toNat + b.toNat) % 8) : e.addBit k b =
      if e.avail = k then e
      else if e.nbits + 1 < 3 then { e with cand := v, nbits := e.nbits + 1 }
      else if v.toNat < 7 then { e with
        buf := e.buf.set e.tail v
        tail := (e.tail + 1) % k
        avail := e.avail + 1
        cand := 0
        nbits := 0 }
      else { e with cand := 0, nbits := 0 } := by
  obtain rfl : v = shiftIn e.cand b := BitVec.eq_of_toNat_eq (hv.trans (shiftIn_toNat e.cand b).symm)
  rcases Extractor.addBit_cases k b e with
    ⟨hfull, he⟩ | ⟨hroom, hbits, he⟩ | ⟨hroom, hbits, hlow, he⟩ | ⟨hroom, hbits, hseven, he⟩
  · rw [he, if_pos hfull]
  · rw [he, if_neg hroom, if_pos hbits]
  · rw [he, if_neg hroom, if_neg hbits, if_pos hlow]
  · rw [he, if_neg hroom, if_neg hbits, if_neg hseven]

/-! ### The queue -/

/-- The samples in the queue do not depend on the candidate. -/
theorem Extractor.queue_with_candidate (k : Nat) (e : Extractor) (c : BitVec 3) (n : Nat) :
    ({ e with cand := c, nbits := n } : Extractor).queue k = e.queue k := rfl

/-- An accepted candidate joins the queue at its end (41_entropy.md R161, R172). -/
theorem ExtractorInv.queue_accept {k : Nat} {e : Extractor} (h : ExtractorInv k e) (room : e.avail < k) (v : Sample) :
    (e.accept k v).queue k = e.queue k ++ [v] := by
  have hread (j : Nat) (hj : j ≤ e.avail) : (e.accept k v).bufRead ((e.head + j) % k) =
      if j = e.avail then v else e.bufRead ((e.head + j) % k) := h.bufRead_push room v hj
  change ((List.range (e.avail + 1)).map fun j => (e.accept k v).bufRead ((e.head + j) % k)) = _
  rw [List.range_succ, List.map_append, List.map_singleton, hread _ le_rfl, if_pos rfl, Extractor.queue]
  congr 1
  refine List.map_congr_left fun j hj => ?_
  have hj : j < e.avail := List.mem_range.1 hj
  rw [hread j hj.le, if_neg hj.ne]

theorem ExtractorInv.queue_decide {k : Nat} {e : Extractor} (h : ExtractorInv k e) (room : e.avail < k) (v : Sample) :
    (e.decide k v).queue k = if v.toNat < 7 then e.queue k ++ [v] else e.queue k := by
  rw [Extractor.decide, Extractor.queue_with_candidate]
  split
  · exact h.queue_accept room v
  · rfl

/-- The oldest sample is the one at the head, and the read of it leaves the rest in order (41_entropy.md R170). -/
theorem Extractor.queue_eq_cons_pop {k : Nat} {e : Extractor} (hhead : e.head < k) (nonempty : 0 < e.avail) :
    e.queue k = e.bufRead e.head :: (e.pop k).queue k := by
  obtain ⟨n, hn⟩ : ∃ n, e.avail = n + 1 := ⟨e.avail - 1, by omega⟩
  have hpop : (e.pop k).queue k = (List.range n).map fun j => e.bufRead (((e.head + 1) % k + j) % k) := by
    rw [Extractor.queue, Extractor.pop, hn]
    rfl
  rw [hpop, Extractor.queue, hn, List.range_succ_eq_map, List.map_cons, List.map_map, Nat.add_zero,
    Nat.mod_eq_of_lt hhead]
  congr 1
  refine List.map_congr_left fun j _ => ?_
  rw [Function.comp_apply, Nat.mod_add_mod, Nat.add_assoc, Nat.add_comm 1 j]

/-! ### Three bits (41_entropy.md R163) -/

/-- The candidate that three bits form, the first one most significant. -/
def candidateOf (t : Bool × Bool × Bool) : Sample :=
  BitVec.ofNat 3 (4 * t.1.toNat + 2 * t.2.1.toNat + t.2.2.toNat)

theorem candidateOf_toNat (t : Bool × Bool × Bool) :
    (candidateOf t).toNat = 4 * t.1.toNat + 2 * t.2.1.toNat + t.2.2.toNat := by
  have h1 := t.1.toNat_le
  have h2 := t.2.1.toNat_le
  have h3 := t.2.2.toNat_le
  exact Nat.mod_eq_of_lt (by omega)

/-- Three bits shifted into an empty candidate (41_entropy.md R161 step 2). -/
theorem shiftIn_three (b1 b2 b3 : Bool) : shiftIn (shiftIn (shiftIn 0 b1) b2) b3 = candidateOf (b1, b2, b3) := by
  revert b1 b2 b3
  decide

/-- A bit that leaves its candidate incomplete (41_entropy.md R161 step 3). -/
theorem Extractor.addBit_of_incomplete {k : Nat} {e : Extractor} (room : e.avail ≠ k) (hbits : e.nbits + 1 < 3)
    (b : Bool) : e.addBit k b = { e with cand := shiftIn e.cand b, nbits := e.nbits + 1 } := by
  rw [Extractor.addBit, if_neg room, if_pos hbits]

/-- A bit that completes its candidate (41_entropy.md R161 steps 4, 5). -/
theorem Extractor.addBit_of_complete {k : Nat} {e : Extractor} (room : e.avail ≠ k) (hbits : ¬ e.nbits + 1 < 3)
    (b : Bool) : e.addBit k b = e.decide k (shiftIn e.cand b) := by
  rw [Extractor.addBit, if_neg room, if_neg hbits]

/-- The decision replaces the candidate and the count, whatever they were. -/
theorem Extractor.decide_with_candidate (k : Nat) (v : Sample) (e : Extractor) (c : BitVec 3) (n : Nat) :
    ({ e with cand := c, nbits := n } : Extractor).decide k v = e.decide k v := by
  simp only [Extractor.decide]
  split <;> rfl

/-- Three bits from no bit held are one decision on the candidate they form. -/
theorem ExtractorInv.addTriple_eq {k : Nat} {e : Extractor} (h : ExtractorInv k e) (room : e.avail < k)
    (hbits : e.nbits = 0) (t : Bool × Bool × Bool) : e.addTriple k t = e.decide k (candidateOf t) := by
  obtain ⟨-, -, -, -, -, -, hcand, -⟩ := h
  have hzero : e.cand = 0 := BitVec.eq_of_toNat_eq (by rw [hbits] at hcand; exact Nat.lt_one_iff.1 hcand)
  have first : e.addBit k t.1 = { e with cand := shiftIn 0 t.1, nbits := 1 } := by
    rw [Extractor.addBit_of_incomplete room.ne (by omega), hzero, hbits]
  have second : ({ e with cand := shiftIn 0 t.1, nbits := 1 } : Extractor).addBit k t.2.1 =
      { e with cand := shiftIn (shiftIn 0 t.1) t.2.1, nbits := 2 } := by
    simp [Extractor.addBit_of_incomplete, room.ne]
  have third : ({ e with cand := shiftIn (shiftIn 0 t.1) t.2.1, nbits := 2 } : Extractor).addBit k t.2.2 =
      e.decide k (shiftIn (shiftIn (shiftIn 0 t.1) t.2.1) t.2.2) := by
    simp [Extractor.addBit_of_complete, room.ne, Extractor.decide_with_candidate]
  rw [Extractor.addTriple, first, second, third, shiftIn_three]

/-- Three bits bring a sample to the queue exactly when they are its bits. -/
theorem ExtractorInv.queue_addTriple_eq_iff {k : Nat} {e : Extractor} (h : ExtractorInv k e) (room : e.avail < k)
    (hbits : e.nbits = 0) {v : Sample} (hv : v.toNat < 7) (t : Bool × Bool × Bool) :
    (e.addTriple k t).queue k = e.queue k ++ [v] ↔ candidateOf t = v := by
  rw [h.addTriple_eq room hbits, h.queue_decide room]
  split
  next => simp
  next hseven =>
    have hne : candidateOf t ≠ v := fun he => hseven (he ▸ hv)
    simp [hne]

/-! ### Weights (41_entropy.md R164) -/

/-- A sample's three bits, the most significant one first. -/
def bitsOf (v : Sample) : Bool × Bool × Bool := (v.getLsbD 2, v.getLsbD 1, v.getLsbD 0)

/-- Of the eight ways three bits can fall, one forms a given candidate. -/
theorem bitTriples_filter_candidateOf (v : Sample) : (bitTriples.filter fun t => candidateOf t = v) = [bitsOf v] := by
  revert v
  decide

theorem bitWeight_eq (a b : Nat) (x : Bool) : bitWeight a b x = a ^ x.toNat * b ^ (1 - x.toNat) := by
  cases x <;> simp [bitWeight]

/-- The weights of three independent bits multiply to the weight of their candidate. -/
theorem tripleWeight_bitsOf (a b : Nat) (v : Sample) : tripleWeight a b (bitsOf v) = candidateWeight a b v := by
  rw [tripleWeight, bitsOf, candidateWeight, onesOf]
  generalize v.getLsbD 2 = x, v.getLsbD 1 = y, v.getLsbD 0 = z
  have hzeros : 3 - (x.toNat + y.toNat + z.toNat) = 1 - x.toNat + (1 - y.toNat) + (1 - z.toNat) := by
    have hx := x.toNat_le
    have hy := y.toNat_le
    have hz := z.toNat_le
    omega
  simp only [bitWeight_eq, hzeros, pow_add]
  ring

theorem onesOf_le (v : Sample) : onesOf v ≤ 3 := by
  have hx := (v.getLsbD 2).toNat_le
  have hy := (v.getLsbD 1).toNat_le
  have hz := (v.getLsbD 0).toNat_le
  rw [onesOf]
  omega

/-- For even odds every candidate has the same weight. -/
theorem candidateWeight_self (a : Nat) (v : Sample) : candidateWeight a a v = a ^ 3 := by
  rw [candidateWeight, ← pow_add, Nat.add_sub_cancel' (onesOf_le v)]

/-- The weights of the samples 0 and 1 agree for even odds only. -/
theorem eq_of_candidateWeight_zero_one {a b : Nat} (hb : 0 < b)
    (h : candidateWeight a b 0 = candidateWeight a b 1) : a = b := by
  have hzero : candidateWeight a b 0 = b * b ^ 2 := by
    rw [candidateWeight, show onesOf 0 = 0 from rfl]
    ring
  have hone : candidateWeight a b 1 = a * b ^ 2 := by
    rw [candidateWeight, show onesOf 1 = 1 from rfl]
    ring
  rw [hzero, hone] at h
  exact (Nat.eq_of_mul_eq_mul_right (Nat.pow_pos hb) h).symm

/-- Settles O43: one fall of the bits forms each candidate, and its weight is the product of theirs. -/
theorem acceptedSamplesFollowTheirWeights : Obligations.AcceptedSamplesFollowTheirWeights := by
  refine ⟨fun s v a b h room hbits hv => ?_, fun a b hb => ⟨fun h => ?_, ?_⟩, by decide⟩
  · simp only [h.queue_addTriple_eq_iff room hbits hv]
    rw [bitTriples_filter_candidateOf, List.map_singleton, List.sum_singleton, tripleWeight_bitsOf]
  · exact eq_of_candidateWeight_zero_one hb (h 0 1 (by decide) (by decide))
  · rintro rfl v w - -
    rw [candidateWeight_self, candidateWeight_self]

end Sys2Proof.Machine

/-! PROOF. The extractor's requests without a wait (41_entropy.md R161-R164, R170-R176), each to the state that it
responds in, and what no extractor request writes (R160). -/

namespace Sys2Proof.Machine

/-! ### The framer's side (41_entropy.md R160) -/

/-- The state with everything left out that an extractor request or an agent beside it may write: the extractor, RESP
and SEQ, and the external agents' own side. -/
def State.framerView (s : State) : State :=
  { s with
    seq := .idle, resp := 0, ex := ⟨[], 0, 0, 0, 0, 0⟩, chBusy := false, noise := [], tickDeadline := false, port := []
    env := [], noiseDraws := 0 }

/-- The primitives of the extractor's pseudocode (41_entropy.md). -/
def Prim.isExtractor : Prim → Bool
  | .addBit _ | .readNoise _ | .addLocalBit | .takeNext | .readAvailable | .readCapacity => true
  | .checkReady | .checkUninit | .checkWindow _ _ _ _ | .emit _ | .wait | .setReady | .respond _ _ => false

theorem program_all_isExtractor (s : State) {i : Instr} (hi : isFramer i = false) :
    (s.program i).all Prim.isExtractor = true := by
  cases i with
  | exAddNoise two chA chB => cases two <;> rfl
  | exAddBit | exNext | exAvailable | exCapacity => rfl
  | _ => cases hi

theorem Prim.perform_framerView {p : Prim} (hp : p.isExtractor = true) (s : State) :
    (s.perform p).framerView = s.framerView := by
  cases p with
  | takeNext => rw [State.perform, State.takeNext]; split <;> rfl
  | addBit | readNoise | addLocalBit | readAvailable | readCapacity => rfl
  | _ => cases hp

theorem State.begin_framerView {i : Instr} (hi : isFramer i = false) (s : State) :
    (s.begin i).framerView = s.framerView := by
  cases i with
  | exAddBit | exAddNoise | exNext | exAvailable | exCapacity => rfl
  | _ => cases hi

theorem exec_framerView {i : Instr} {s t : State} (hi : isFramer i = false) (hn : NoReset s) (h : exec i s = .next t) :
    t.framerView = s.framerView := by
  rw [exec_eq_run] at h
  cases h
  have hprog := List.all_eq_true.1 (program_all_isExtractor (s.begin i) hi)
  exact run_keeps (Q := fun u => u.framerView = s.framerView)
    (fun _ _ same hu => (same.view_eq State.framerView fun _ _ => rfl).trans hu) _
    (fun p hp u hu => (Prim.perform_framerView (hprog p hp) u).trans hu) _
    (FramerState.begin hn i).noReset (by simp) (State.begin_framerView hi s)

/-- Settles O33: each field by the framer's side as a whole. -/
theorem extractorLeavesTheFramerAlone : Obligations.ExtractorLeavesTheFramerAlone := by
  intro i s t hi hn h
  have hview := exec_framerView hi hn h
  have kept {α : Type} (f : State → α) (hf : ∀ u, f u.framerView = f u) : f t = f s := by rw [← hf t, hview, hf s]
  exact ⟨kept State.busLog fun _ => rfl, kept State.frInit fun _ => rfl, kept State.lineCmd fun _ => rfl,
    kept State.lineCs fun _ => rfl, kept State.lineRst fun _ => rfl, kept State.rx fun _ => rfl,
    kept State.plBuf fun _ => rfl, kept State.plLen fun _ => rfl, kept State.fault fun _ => rfl,
    kept State.cfg fun _ => rfl⟩

/-! ### The requests -/

/-- A request of one primitive that responds at once. -/
theorem exec_of_single {i : Instr} {s : State} {p : Prim} (hprog : (s.begin i).program i = [p])
    (he : (s.begin i).enabled p = true) (hidle : ((s.begin i).perform p).seq.isIdle = true) :
    exec i s = .next ((s.begin i).perform p) := by
  rw [exec_eq_run, hprog, State.run_cons_done _ _ _ he hidle]

/-- What `addbit` leaves: the extractor after the bit, and the response OK (41_entropy.md R161). -/
theorem State.addBit_eq (b : Bool) (s : State) :
    s.addBit b = { s with ex := s.ex.addBit s.cfg.k b, resp := 0, seq := .idle } := by
  rw [State.addBit, State.respond, okResponse_false_zero]

theorem exec_exAddBit (b : Bool) (s : State) :
    exec (.exAddBit b) s = .next { s with ex := s.ex.addBit s.cfg.k b, resp := 0, seq := .idle } := by
  rw [exec_of_single (p := .addBit b) rfl rfl rfl, State.perform, State.addBit_eq]
  rfl

/-- EX_NEXT with a sample in the queue (41_entropy.md R170). -/
theorem exec_exNext_of_nonempty {s : State} (h : 0 < s.ex.avail) : exec .exNext s = .next { s with
    ex := s.ex.pop s.cfg.k
    resp := okResponse true ((s.ex.bufRead s.ex.head).setWidth 8)
    seq := .idle } := by
  have htake : (s.begin .exNext).perform .takeNext = { s with
      ex := s.ex.pop s.cfg.k
      resp := okResponse true ((s.ex.bufRead s.ex.head).setWidth 8)
      seq := .idle } := if_pos h
  rw [exec_of_single (p := .takeNext) rfl rfl (by rw [htake]; rfl), htake]

/-- EX_NEXT with none (41_entropy.md R171). -/
theorem exec_exNext_of_empty {s : State} (h : s.ex.avail = 0) :
    exec .exNext s = .next { s with resp := okResponse false s.cfg.fallback, seq := .idle } := by
  have htake : (s.begin .exNext).perform .takeNext =
      { s with resp := okResponse false s.cfg.fallback, seq := .idle } := if_neg (Nat.not_lt.2 h.le)
  rw [exec_of_single (p := .takeNext) rfl rfl (by rw [htake]; rfl), htake]

theorem exec_exAvailable (s : State) : exec .exAvailable s = .next { s with
    resp := okResponse true (BitVec.ofNat 8 s.ex.avail)
    seq := .idle } :=
  exec_of_single (p := .readAvailable) rfl rfl rfl

theorem exec_exCapacity (s : State) : exec .exCapacity s = .next { s with
    resp := okResponse true (BitVec.ofNat 8 s.cfg.k)
    seq := .idle } :=
  exec_of_single (p := .readCapacity) rfl rfl rfl

/-- Settles O41: the request is `addbit`, and that is the five steps. -/
theorem addBitFollowsTheFiveSteps : Obligations.AddBitFollowsTheFiveSteps := by
  intro s b v hv
  rw [exec_exAddBit, Extractor.addBit_eq _ _ _ hv]

/-- Settles O42: the three requests are three bits from no bit held, one decision on the candidate they form. -/
theorem threeBitsFormOneCandidate : Obligations.ThreeBitsFormOneCandidate := by
  intro s t u v b1 b2 b3 h room hbits ht hu hv
  rw [exec_exAddBit] at ht hu hv
  cases ht
  cases hu
  cases hv
  have hex := h.addTriple_eq room hbits (b1, b2, b3)
  have hqueue := h.queue_decide room (candidateOf (b1, b2, b3))
  rw [candidateOf_toNat, ← hex] at hqueue
  refine ⟨congrArg Extractor.nbits hex, congrArg Extractor.cand hex, fun hlow => ?_, fun hseven => ?_⟩
  · exact hqueue.trans (if_pos hlow)
  · exact hqueue.trans (if_neg (by simp only [hseven]; decide))

/-- Settles O45: the queue's first sample is the one read, and the others stay behind it. -/
theorem nextTakesTheOldestSample : Obligations.NextTakesTheOldestSample := by
  intro s v rest h hqueue
  obtain ⟨-, -, hhead, -⟩ := h
  have nonempty : 0 < s.ex.avail := by
    rw [← Extractor.queue_length s.cfg.k s.ex, hqueue]
    exact Nat.succ_pos _
  rw [Extractor.queue_eq_cons_pop hhead nonempty] at hqueue
  obtain ⟨rfl, rfl⟩ := List.cons.inj hqueue
  refine ⟨_, exec_exNext_of_nonempty nonempty, rfl, respValid_okResponse _ _, respStatus_okResponse _ _, ?_, rfl⟩
  rw [respValue_okResponse, BitVec.toNat_setWidth]
  omega

/-- Settles O46: the response without VALID is the fallback alone. -/
theorem nextOnEmptyAnswersTheFallback : Obligations.NextOnEmptyAnswersTheFallback := by
  intro s h
  rw [← okResponse_false]
  exact ⟨exec_exNext_of_empty h, respValid_okResponse false _⟩

theorem Config.k_lt_of_wf {c : Config} (h : c.wf = true) : c.k < 256 := by
  simp only [Config.wf, Bool.and_eq_true, decide_eq_true_eq] at h
  omega

/-- Settles O47: both numbers fit the response's VALUE. -/
theorem accessorsAnswerCountAndCapacity : Obligations.AccessorsAnswerCountAndCapacity := by
  intro s hc havail
  have hk := Config.k_lt_of_wf hc
  have fits (n : Nat) (hn : n < 256) : (respValue (okResponse true (BitVec.ofNat 8 n))).toNat = n := by
    rw [respValue_okResponse, BitVec.toNat_ofNat, Nat.mod_eq_of_lt hn]
  exact ⟨⟨_, exec_exAvailable s, respStatus_okResponse _ _, respValid_okResponse _ _, fits _ (by omega)⟩,
    ⟨_, exec_exCapacity s, respStatus_okResponse _ _, respValid_okResponse _ _, fits _ hk⟩⟩

end Sys2Proof.Machine

/-! PROOF. EX_ADD_NOISE (41_entropy.md R166): the read of a ready sample, the wait for one under NOISE_FAIR, and the
hang on a channel that never becomes ready (60_exceptions.md R227). -/

namespace Sys2Proof.Machine

/-! ### One read -/

section
variable {s : State} {ch : Byte}

theorem State.enabled_readNoise_of_ready {v : Nat} {before later : List NoiseSample}
    (h : s.noise = before ++ ⟨ch, v⟩ :: later) : s.enabled (.readNoise ch) = true := by
  simp [State.enabled, State.noiseReady, h]

/-- A channel without a ready sample, nothing scheduled and no fairness: nothing ends the await
(60_exceptions.md R227). -/
theorem State.stuckAt_readNoise (hf : s.noiseFair = false) (he : s.env = []) (h : ∀ n ∈ s.noise, n.channel ≠ ch) :
    s.stuckAt (.readNoise ch) = true := by
  have hready : s.noiseReady ch = false := by simpa [State.noiseReady] using h
  simp [State.stuckAt, State.enabled, State.grant, hf, he, hready]

/-- With a sample ready the sequencer takes the channel's first one, and goes on with its bit 0 in the local bit
(41_entropy.md R166). -/
theorem State.run_readNoise_of_ready {req : Instr} {pos : Nat} {bit : Bool} (hq : s.seq = .busy req pos bit) {v : Nat}
    {before later : List NoiseSample} (h : s.noise = before ++ ⟨ch, v⟩ :: later)
    (hfirst : ∀ n ∈ before, n.channel ≠ ch) (ps : List Prim) : s.run (.readNoise ch :: ps) =
      ({ s with noise := before ++ later, seq := .busy req (pos + 1) (bit ^^ (v % 2 == 1)) } : State).run ps := by
  have hread : s.perform (.readNoise ch) =
      { s with noise := before ++ later, seq := .busy req (pos + 1) (bit ^^ (v % 2 == 1)) } := by
    rw [State.perform, State.readNoise, h, takeSample_first ch v before later hfirst, hq]
    rfl
  rw [State.run_cons_more _ _ _ (State.enabled_readNoise_of_ready h) (by rw [hread]; rfl), hread]

/-- The local bit is added, and the request responds (41_entropy.md R166). -/
theorem State.run_addLocalBit (s : State) : s.run [.addLocalBit] = s.addBit s.seq.localBit :=
  State.run_cons_done _ _ _ rfl rfl

/-- A step from an await that nothing ends is the hang (60_exceptions.md R227). -/
theorem step_of_stuckAt {p : Prim} {ps : List Prim} (h : s.AtPrims (p :: ps)) (hs : s.stuckAt p = true) :
    step s = .fault (hangOf p) := by
  obtain ⟨req, pos, bit, hq, hd⟩ := h
  simp [step, hq, State.resume, hd, hs]

end

/-! ### With the samples ready, and with none -/

/-- What is left of EX_ADD_NOISE after its first read (41_entropy.md R166). -/
def afterFirstRead (two : Bool) (chB : Byte) : List Prim :=
  if two then [.readNoise chB, .addLocalBit] else [.addLocalBit]

theorem progAddNoise_eq (two : Bool) (chA chB : Byte) :
    progAddNoise two chA chB = .readNoise chA :: afterFirstRead two chB := by
  cases two <;> rfl

theorem exec_exAddNoise (two : Bool) (a b : Byte) (s : State) : exec (.exAddNoise two a b) s =
    .next ((s.begin (.exAddNoise two a b)).run (.readNoise a :: afterFirstRead two b)) := by
  rw [exec_eq_run, State.program, progAddNoise_eq]

theorem exec_exAddNoise_of_ready {s : State} {a : Byte} {v : Nat} {before later : List NoiseSample}
    (hnoise : s.noise = before ++ ⟨a, v⟩ :: later) (hfirst : ∀ n ∈ before, n.channel ≠ a) (two : Bool) (b : Byte) :
    exec (.exAddNoise two a b) s = .next (({ s with
      noise := before ++ later
      seq := .busy (.exAddNoise two a b) 1 (v % 2 == 1) } : State).run (afterFirstRead two b)) := by
  have hread := State.run_readNoise_of_ready (s := s.begin (.exAddNoise two a b)) rfl hnoise hfirst
  rw [exec_exAddNoise, hread, Bool.false_xor]
  rfl

/-- Settles O48: one read, then its bit. -/
theorem addNoiseUsesBitZeroOfOneSample : Obligations.AddNoiseUsesBitZeroOfOneSample := by
  intro s a b v before later hnoise hfirst
  rw [exec_exAddNoise_of_ready hnoise hfirst, afterFirstRead, if_neg Bool.false_ne_true, State.run_addLocalBit,
    State.addBit_eq]
  rfl

/-- Settles O49: two reads, the second from what the first leaves, then the xor of their bits. -/
theorem addNoiseXorsTwoSamples : Obligations.AddNoiseXorsTwoSamples := by
  intro s a b v w before later before' later' hnoise hfirst hleft hsecond
  have hread := State.run_readNoise_of_ready (s := { s with
    noise := before ++ later
    seq := .busy (.exAddNoise true a b) 1 (v % 2 == 1) }) rfl hleft hsecond [.addLocalBit]
  rw [exec_exAddNoise_of_ready hnoise hfirst, afterFirstRead, if_pos rfl, hread, State.run_addLocalBit, State.addBit_eq]
  rfl

/-- Settles O51: the await at which the request stops is stuck, and it is where SEQ stands. -/
theorem stuckNoiseChannelHangsTheRequest : Obligations.StuckNoiseChannelHangsTheRequest := by
  constructor
  · intro s two a b hf he hnone
    have hstuck : (s.begin (.exAddNoise two a b)).stuckAt (.readNoise a) = true := State.stuckAt_readNoise hf he hnone
    have hat : (s.begin (.exAddNoise two a b)).AtPrims (.readNoise a :: afterFirstRead two b) :=
      progAddNoise_eq two a b ▸ State.begin_atPrims (.exAddNoise two a b) s
    refine ⟨?_, step_of_stuckAt hat hstuck⟩
    rw [exec_exAddNoise, State.run_of_stuckAt hstuck]
    rfl
  · rintro s t a b v before later hf he hnoise hfirst hnone rfl
    have hstuck : ({ s with
        noise := before ++ later
        seq := .busy (.exAddNoise true a b) 1 (v % 2 == 1) } : State).stuckAt (.readNoise b) = true :=
      State.stuckAt_readNoise hf he hnone
    refine ⟨?_, step_of_stuckAt ⟨_, _, _, rfl, rfl⟩ hstuck⟩
    rw [exec_exAddNoise_of_ready hnoise hfirst, afterFirstRead, if_pos rfl, State.run_of_stuckAt hstuck]

/-! ### Under NOISE_FAIR -/

/-- `t` is reached by EX_ADD_NOISE begun in `s` and still in progress under NOISE_FAIR; the extractor is as in `s`, and
no reset is scheduled. -/
structure Collecting (s t : State) : Prop where
  busy    : t.seq.isIdle = false
  ex      : t.ex = s.ex
  cfg     : t.cfg = s.cfg
  fair    : t.noiseFair = true
  noReset : NoReset t

section
variable {s t : State}

theorem Collecting.begin (hf : s.noiseFair = true) (hn : NoReset s) (i : Instr) : Collecting s (s.begin i) where
  busy    := by simp
  ex      := by simp
  cfg     := by simp
  fair    := by simpa using hf
  noReset := (FramerState.begin hn i).noReset

/-- A fair noise source ends every await, with no reset scheduled (60_exceptions.md R227). -/
theorem Collecting.run_readNoise (h : Collecting s t) (ch : Byte) (ps : List Prim) :
    ∃ u, t.run (.readNoise ch :: ps) = u.run ps ∧ Collecting s u := by
  obtain ⟨hbusy, hex, hcfg, hfair, hn⟩ := h
  rcases State.awaitFor_cases (.readNoise ch) t.env t rfl with
    ⟨v, ha, -, same, henv⟩ | ⟨v, -, -, hg, -, same⟩ | ⟨v, -, -, hidle | ⟨-, d, -, -, hd⟩⟩
  · have hv : Collecting s (v.perform (.readNoise ch)) :=
      { busy    := by simpa [State.perform, same.view_eq State.seq fun _ _ => rfl] using hbusy
        ex      := (same.view_eq State.ex fun _ _ => rfl).trans hex
        cfg     := (same.view_eq State.cfg fun _ _ => rfl).trans hcfg
        fair    := (same.view_eq State.noiseFair fun _ _ => rfl).trans hfair
        noReset := fun d hd => hn d (henv _ hd) }
    refine ⟨_, ?_, hv⟩
    rw [State.run, ha]
    exact if_neg (by simp [hv.busy])
  · have hvf : v.noiseFair = true := (same.view_eq State.noiseFair fun _ _ => rfl).trans hfair
    simp [State.grant, hvf] at hg
  · simp [hidle] at hbusy
  · exact absurd hd (hn d)

end

/-- Under NOISE_FAIR with no reset scheduled EX_ADD_NOISE adds some bit and responds OK (41_entropy.md R166). -/
theorem exec_exAddNoise_of_fair {s : State} (hf : s.noiseFair = true) (hn : NoReset s) (two : Bool) (a b : Byte) :
    ∃ t bit, exec (.exAddNoise two a b) s = .next t ∧ t.ex = s.ex.addBit s.cfg.k bit ∧ t.resp = 0 ∧ t.seq = .idle := by
  have adds {u : State} (h : Collecting s u) : (u.run [.addLocalBit]).ex = s.ex.addBit s.cfg.k u.seq.localBit ∧
      (u.run [.addLocalBit]).resp = 0 ∧ (u.run [.addLocalBit]).seq = .idle := by
    rw [State.run_addLocalBit, State.addBit_eq, h.ex, h.cfg]
    exact ⟨rfl, rfl, rfl⟩
  obtain ⟨u, hu, hfirst⟩ := (Collecting.begin hf hn (.exAddNoise two a b)).run_readNoise a (afterFirstRead two b)
  rw [exec_exAddNoise, hu]
  cases two with
  | false => exact ⟨_, _, rfl, adds hfirst⟩
  | true =>
    obtain ⟨v, hv, hsecond⟩ := hfirst.run_readNoise b [.addLocalBit]
    exact ⟨_, _, congrArg Host.Outcome.next hv, adds hsecond⟩

/-- Settles O50: it adds some bit, and leaves the framer's side. -/
theorem addNoiseCompletesUnderFairness : Obligations.AddNoiseCompletesUnderFairness := by
  intro s two a b hf hn
  obtain ⟨t, bit, ht, hex, hresp, hseq⟩ := exec_exAddNoise_of_fair hf hn two a b
  obtain ⟨hlog, hinit, -, -, -, -, -, -, hfault, -⟩ := extractorLeavesTheFramerAlone _ s t rfl hn ht
  exact ⟨t, bit, ht, hex, hresp, hseq, hlog, hfault, hinit⟩

/-- Settles O44: `addbit` does nothing when the buffer is full, whatever the bit. -/
theorem fullBufferDiscardsTheBit : Obligations.FullBufferDiscardsTheBit := by
  intro s hfull
  refine ⟨fun b => ?_, fun two a b t hn hf h => ?_⟩
  · rw [exec_exAddBit, Extractor.addBit_of_full hfull]
  · obtain ⟨t', bit, ht', hex, hresp, hseq⟩ := exec_exAddNoise_of_fair hf hn two a b
    cases h.symm.trans ht'
    rw [Extractor.addBit_of_full hfull] at hex
    exact ⟨hex, hresp, hseq⟩

end Sys2Proof.Machine

/-! PROOF. The host's sequences (45_host_sequences.md R190-R196): the patterns that a fill writes, counted against its
window's area, and the clamp of a number for display. -/

namespace Sys2Proof.Machine

/-! ### The patterns of a fill -/

/-- A fill of a window that is not empty writes `ceil(w * h / 2)` patterns (45_host_sequences.md R190). -/
theorem fillRepeat_add_one {w h : Nat} (harea : 1 ≤ w * h) : fillRepeat w h + 1 = (w * h + 1) / 2 := by
  rw [fillRepeat]
  omega

/-- Settles O58: rounding `w * h / 2` up adds nothing for an even area, and for an odd one half a pattern, which is one
pixel. -/
theorem fillRepeatCoversTheArea : Obligations.FillRepeatCoversTheArea := by
  intro w h harea
  have hpatterns : fillRepeat w h + 1 = (w * h + 1) / 2 := fillRepeat_add_one harea
  refine ⟨fun heven => ?_, fun hodd => ⟨?_, ?_⟩⟩
  · omega
  · omega
  · omega

/-! ### The clamp for display -/

/-- Past its maximum a number is drawn as the maximum (45_host_sequences.md R194). -/
theorem drawNumber_of_le {maxValue value : Nat} (hmax : maxValue ≤ value) (l : HostLayout) (anchor : Nat × Nat) :
    drawNumber l anchor value maxValue = drawNumber l anchor maxValue maxValue := by
  rw [drawNumber, drawNumber, Nat.min_eq_right hmax, Nat.min_self]

/-- Settles O59: the score is a number drawn with its maximum, at the score's anchor. -/
theorem drawScoreClampsForDisplay : Obligations.DrawScoreClampsForDisplay :=
  fun l _ hmax => drawNumber_of_le hmax l l.scoreAnchor

end Sys2Proof.Machine

/-! PROOF. Faults and the external agents (60_exceptions.md R213, R225, R229, R230): an idle block that takes no request
can only be moved by another agent, a channel that stays busy is a hang, and only the tick source, the host and block
reset write the tick flag. -/

namespace Sys2Proof.Machine

/-! ### The idle block without a request to take -/

section
variable {s t : State}

theorem step_eq_idleStep (hq : s.seq = .idle) : step s = s.idleStep := step_of_idle (port := s.port) hq

/-- A set fault closes the port (60_exceptions.md R213). -/
theorem step_eq_idleMove_of_faulted (hq : s.seq = .idle) (hf : s.fault ≠ .none) : step s = s.idleMove := by
  have hclosed : ¬ s.portOpen = true := by simp [State.portOpen, hf]
  rw [step_eq_idleStep hq, State.idleStep, if_neg hclosed]

/-- With an empty port it makes no difference whether the port is open. -/
theorem step_eq_idleMove_of_port_nil (hq : s.seq = .idle) (hp : s.port = []) : step s = s.idleMove := by
  simp only [step_eq_idleStep hq, State.idleStep, hp, ite_self]

theorem idleMove_of_scheduled {m : EnvMove} {ms : List EnvMove} (he : s.env = m :: ms) :
    s.idleMove = .next (({ s with env := ms } : State).move m) := by
  rw [State.idleMove, he]

theorem idleMove_of_halted (he : s.env = []) (hf : s.fault ≠ .none) : s.idleMove = .fault (.halted s.fault) := by
  simp only [State.idleMove, he, if_neg hf]

theorem idleMove_of_unfaulted (he : s.env = []) (hf : s.fault = .none) : s.idleMove = .next s := by
  simp only [State.idleMove, he, if_pos hf]

/-- An idle block that moves on makes the next scheduled move, or waits as it is. -/
theorem idleMove_cases (h : s.idleMove = .next t) :
    (∃ m ms, s.env = m :: ms ∧ t = ({ s with env := ms } : State).move m) ∨ s.env = [] ∧ s.fault = .none ∧ t = s := by
  cases he : s.env with
  | cons m ms =>
    rw [idleMove_of_scheduled he] at h
    cases h
    exact .inl ⟨m, ms, rfl, rfl⟩
  | nil =>
    by_cases hf : s.fault = .none
    · rw [idleMove_of_unfaulted he hf] at h
      cases h
      exact .inr ⟨rfl, hf, rfl⟩
    · rw [idleMove_of_halted he hf] at h
      cases h

/-- The busy bit in which two states of the same block differ is the later state's. -/
theorem SameBlock.blockView_eq (h : SameBlock s t) :
    t.blockView = ({ s with chBusy := t.chBusy } : State).blockView := by
  obtain ⟨b, hb⟩ := h
  have hbit : t.chBusy = b := congrArg State.chBusy hb
  rw [hbit, hb]

/-- A move of another agent only adds requests to the port (60_exceptions.md R235). -/
theorem State.move_port (m : EnvMove) (s : State) : ∃ rs, (s.move m).port = s.port ++ rs := by
  cases m with
  | issue r => exact ⟨[r], rfl⟩
  | _ => exact ⟨[], (List.append_nil _).symm⟩

end

/-- Settles O12: its port is closed, so that its step is the idle block's. -/
theorem faultedBlockHasNoStepOfItsOwn : Obligations.FaultedBlockHasNoStepOfItsOwn := by
  intro s hq hf
  rw [step_eq_idleMove_of_faulted hq hf]
  exact ⟨fun he => idleMove_of_halted he hf, fun m ms he => idleMove_of_scheduled he⟩

/-- Settles O13: its step is a scheduled move, and only block reset would write the block. -/
theorem faultLastsUntilReset : Obligations.FaultLastsUntilReset := by
  intro s t hq hf hn h
  rw [step_eq_idleMove_of_faulted hq hf] at h
  rcases idleMove_cases h with ⟨m, ms, he, rfl⟩ | ⟨-, hnone, -⟩
  · have hm : ∀ d, m ≠ .reset d := fun d hd => hn.not_due (hd ▸ he)
    have unscheduled : SameBlock s { s with env := ms } := ⟨s.chBusy, rfl⟩
    exact ⟨(unscheduled.trans (.move m _ hm)).blockView_eq, State.move_port m { s with env := ms }⟩
  · exact absurd hnone hf

/-! ### A channel that never clears busy -/

/-- A busy channel, nothing scheduled and no fairness: nothing ends `Wait()` (60_exceptions.md R225). -/
theorem State.stuckAt_wait {s : State} (hb : s.chBusy = true) (he : s.env = []) (hf : s.chanFair = false) :
    s.stuckAt .wait = true := by
  simp [State.stuckAt, State.enabled, State.grant, hb, he, hf]

/-- Settles O18: the sequencer stands at an await that nothing ends. -/
theorem stuckChannelHangsTheSequencer : Obligations.StuckChannelHangsTheSequencer :=
  fun _ req pos bit _ hq hd hb he hf => step_of_stuckAt ⟨req, pos, bit, hq, hd⟩ (State.stuckAt_wait hb he hf)

/-! ### Who moves in a finest step -/

/-- The finest steps by the agent that moves, each with its next state written out: the block waits, another agent makes
its scheduled move or the move that fairness grants, the sequencer performs a primitive, or the port takes a request. -/
inductive MoverStep (s : State) : State → Prop where
  | wait : MoverStep s s
  | move {m : EnvMove} {ms : List EnvMove} (due : s.env = m :: ms) :
      MoverStep s (({ s with env := ms } : State).move m)
  | grant {p : Prim} {t : State} (granted : s.grant p = some t) : MoverStep s t
  | perform {p : Prim} (enabled : s.enabled p = true) : MoverStep s (s.perform p)
  | accept {r : Request} {rs : List Request} (issued : s.port = r :: rs) :
      MoverStep s (({ s with port := rs } : State).microAccept r)

section
variable {s t : State}

theorem MoverStep.of_idleMove (h : s.idleMove = .next t) : MoverStep s t := by
  rcases idleMove_cases h with ⟨m, ms, he, rfl⟩ | ⟨-, -, rfl⟩
  · exact .move he
  · exact .wait

theorem MoverStep.of_microBusy {req : Instr} {pos : Nat} (h : s.microBusy req pos = .next t) : MoverStep s t := by
  rw [State.microBusy] at h
  split at h
  next => cases h
  next =>
    split at h
    next hen => cases h; exact .perform hen
    next =>
      split at h
      next he => cases h; exact .move he
      next =>
        split at h
        next hg => cases h; exact .grant hg
        next => cases h

/-- Every finest step is one of them. -/
theorem MoverStep.of_microStep (h : microStep s = .next t) : MoverStep s t := by
  rw [microStep] at h
  split at h
  next => exact .of_microBusy h
  next =>
    split at h
    · split at h
      next hp => cases h; exact .accept hp
      next => exact .of_idleMove h
    · exact .of_idleMove h

/-- What every finest step keeps, a path of them keeps. -/
theorem MicroPath.keeps {Q : State → Prop} (hQ : ∀ s t, microStep s = .next t → Q s → Q t) (h : MicroPath s t)
    (hs : Q s) : Q t := by
  obtain ⟨n, hn⟩ := h
  induction n generalizing s with
  | zero => cases hn; exact hs
  | succ n ih =>
    cases hm : microStep s with
    | next u => exact ih (hQ s u hm hs) (by simpa only [microRun, hm] using hn)
    | fault f => simp [microRun, hm] at hn
    | refused r => simp [microRun, hm] at hn

/-! ### The tick flag -/

/-- No primitive touches the tick flag (60_exceptions.md R229). -/
theorem PrimStep.tickDeadline_eq {p : Prim} (h : PrimStep p s t) : t.tickDeadline = s.tickDeadline := by
  cases h with
  | emit e => simp
  | _ => rfl

/-- What fairness grants is the channel's move or the noise source's. -/
theorem State.grant_tickDeadline {p : Prim} (h : s.grant p = some t) : t.tickDeadline = s.tickDeadline := by
  cases p with
  | wait =>
    obtain ⟨-, hbusy⟩ := Option.ite_none_right_eq_some.1 h
    cases hbusy
    rfl
  | readNoise ch =>
    obtain ⟨-, hoffer⟩ := Option.ite_none_right_eq_some.1 h
    cases hoffer
    rfl
  | _ => cases h

theorem State.microAccept_tickDeadline (r : Request) (s : State) :
    (s.microAccept r).tickDeadline = s.tickDeadline := by
  rw [State.microAccept]
  split
  · exact State.raise_tickDeadline _ s
  · exact State.begin_tickDeadline _ s

/-- A move that neither clears the flag nor resets the block leaves a set flag set. -/
theorem State.move_tickDeadline {m : EnvMove} (hc : m ≠ .clearDeadline) (hr : ∀ d, m ≠ .reset d)
    (h : s.tickDeadline = true) : (s.move m).tickDeadline = true := by
  cases m with
  | clearDeadline => exact absurd rfl hc
  | reset d => exact absurd rfl (hr d)
  | tickElapsed => rfl
  | _ => exact h

/-- The flag is set, and neither of the two moves that can write `false` to it is scheduled (60_exceptions.md R229;
70_reset_and_hazards.md R240). -/
structure TickHeld (s : State) : Prop where
  set     : s.tickDeadline = true
  noClear : EnvMove.clearDeadline ∉ s.env
  noReset : NoReset s

theorem MoverStep.tickDeadline (h : MoverStep s t) (hs : TickHeld s) : t.tickDeadline = true := by
  cases h with
  | wait => exact hs.set
  | @move m ms due =>
    have hclear : m ≠ .clearDeadline := fun hm => hs.noClear (by simp [due, hm])
    have hreset : ∀ d, m ≠ .reset d := fun d hm => hs.noReset.not_due (hm ▸ due)
    exact State.move_tickDeadline (s := { s with env := ms }) hclear hreset hs.set
  | grant granted => exact (State.grant_tickDeadline granted).trans hs.set
  | perform => exact (PrimStep.of_perform _ s).tickDeadline_eq.trans hs.set
  | @accept r rs => exact (State.microAccept_tickDeadline r { s with port := rs }).trans hs.set

/-- Every finest step holds the flag, since it schedules nothing. -/
theorem TickHeld.microStep (hs : TickHeld s) (h : microStep s = .next t) : TickHeld t := by
  have henv : t.env ⊆ s.env := (AgentStep.of_microStep h).env_subset
  exact ⟨(MoverStep.of_microStep h).tickDeadline hs, fun hc => hs.noClear (henv hc), fun d hd => hs.noReset d (henv hd)⟩

theorem TickHeld.step (hs : TickHeld s) (h : step s = .next t) : TickHeld t :=
  have path : MicroPath s t := stepIsAPathOfMicroSteps.1 s t h
  path.keeps (fun _ _ hm hu => hu.microStep hm) hs

/-! ### The glue loop's wait -/

/-- The wait ends after one step when that step sets the flag: the bound leaves two polls for every state. -/
theorem awaitDeadline_of_step_sets (hs : s.tickDeadline = false) (h : step s = .next t) (ht : t.tickDeadline = true) :
    awaitDeadline s = .done t := by
  simp [awaitDeadline, pollDeadline, State.deadlineElapsed, hs, h, ht]

theorem glueIteration_of_done {frame : State → HostResult} (h : awaitDeadline s = .done t) :
    glueIteration frame s = frame { t with tickDeadline := false } := by
  rw [glueIteration, h]
  rfl

theorem glueIteration_of_waiting {frame : State → HostResult} (h : awaitDeadline s = .waiting t) :
    glueIteration frame s = .waiting t := by
  rw [glueIteration, h]
  rfl

/-- An idle block with an empty port makes the scheduled move. -/
theorem step_of_scheduled {m : EnvMove} {ms : List EnvMove} (hq : s.seq = .idle) (hp : s.port = [])
    (he : s.env = m :: ms) : step s = .next (({ s with env := ms } : State).move m) :=
  (step_eq_idleMove_of_port_nil hq hp).trans (idleMove_of_scheduled he)

/-- An idle unfaulted block with an empty port and nothing scheduled waits (70_reset_and_hazards.md R241). -/
theorem step_of_unscheduled (hq : s.seq = .idle) (hf : s.fault = .none) (hp : s.port = []) (he : s.env = []) :
    step s = .next s :=
  (step_eq_idleMove_of_port_nil hq hp).trans (idleMove_of_unfaulted he hf)

end

/-- Settles O60: along each step by who moves in it, at an idle block by its scheduled move, and in the glue loop by the
wait, which ends with the flag set. -/
theorem tickFlagLastsUntilTheHostClearsIt : Obligations.TickFlagLastsUntilTheHostClearsIt := by
  refine ⟨fun s t hset hc hn h => (TickHeld.step ⟨hset, hc, hn⟩ h).set,
    fun s => ⟨?tick, ?clear, ?atOnce, ?afterTick, ?waits⟩⟩
  case tick => exact fun ms hq hp he => step_of_scheduled hq hp he
  case clear => exact fun ms hq hp he => step_of_scheduled hq hp he
  case atOnce => exact fun frame hset => glueIteration_of_done (awaitDeadline_of_set s hset)
  case afterTick =>
    intro frame ms hunset hq hp he
    exact glueIteration_of_done (awaitDeadline_of_step_sets hunset (step_of_scheduled hq hp he) rfl)
  case waits =>
    intro frame hunset hq hf hp he
    exact glueIteration_of_waiting (awaitDeadline_of_nothing s hunset (step_of_unscheduled hq hf hp he))

end Sys2Proof.Machine

/-! PROOF. Block reset (70_reset_and_hazards.md R240, R241): where it can fall, each time to the same next state, and the
block waiting after it. With them the event counts of R251, summed over the event lists that the framer's requests emit. -/

namespace Sys2Proof.Machine

/-! ### After reset -/

/-- Settles O15: the reset state is idle and unfaulted, with an empty port and nothing scheduled. -/
theorem resetBlockWaitsForARequest : Obligations.ResetBlockWaitsForARequest :=
  fun _ _ => step_of_unscheduled rfl rfl rfl rfl

/-! ### Where block reset can fall -/

/-- Block reset gives the values of R45 from any state: what it keeps of that state is outside them. -/
theorem State.blockReset_resetValues (d : ResetDraw) (s : State) : ResetValues s.cfg (s.blockReset d) := by
  obtain ⟨hvalues, -, -⟩ := resetLeavesTheSpecsValues s.cfg d
  exact hvalues

section
variable {s : State} {d : ResetDraw} {ms : List EnvMove}

/-- A reset that is due closes the port of an idle block, faulted or not (assumption log 8). -/
theorem step_of_idle_of_reset (hq : s.seq = .idle) (he : s.env = .reset d :: ms) :
    step s = .next (({ s with env := ms } : State).blockReset d) := by
  have hclosed : ¬ s.portOpen = true := by simp [State.portOpen, State.resetDue, he]
  rw [step_eq_idleStep hq, State.idleStep, if_neg hclosed]
  exact idleMove_of_scheduled he

/-- A reset that is due ends an await by abandoning the request (70_reset_and_hazards.md R240). -/
theorem State.run_of_reset {p : Prim} (ps : List Prim) (hp : s.enabled p = false) (he : s.env = .reset d :: ms) :
    s.run (p :: ps) = ({ s with env := ms } : State).blockReset d := by
  have hidle : ((({ s with env := ms } : State).move (.reset d)).seq).isIdle = true := rfl
  have hawait : s.awaitFor p s.env = .abandoned (({ s with env := ms } : State).move (.reset d)) := by
    simp [he, State.awaitFor, hp, hidle]
  rw [State.run, hawait]
  rfl

/-- A request that is waiting in its pseudocode, with a reset due. -/
theorem step_of_await_of_reset {p : Prim} {ps : List Prim} (h : s.AtPrims (p :: ps)) (hp : s.enabled p = false)
    (he : s.env = .reset d :: ms) : step s = .next (({ s with env := ms } : State).blockReset d) := by
  obtain ⟨req, pos, bit, hq, hd⟩ := h
  have hmoves : ¬ s.stuckAt p = true := by simp [State.stuckAt, he]
  simp only [step, hq, State.resume, hd, if_neg hmoves, State.run_of_reset ps hp he]

end

/-- Settles O16: in each of the cases the step is that one block reset. -/
theorem blockResetRestoresTheResetState : Obligations.BlockResetRestoresTheResetState := by
  intro s d ms he hcase
  have hstep : step s = .next (({ s with env := ms } : State).blockReset d) := by
    rcases hcase with hq | ⟨req, pos, bit, ps, hq, hd, hbusy⟩ | ⟨req, pos, bit, ps, ch, hq, hd, hready⟩
    · exact step_of_idle_of_reset hq he
    · exact step_of_await_of_reset ⟨req, pos, bit, hq, hd⟩ (by simp [State.enabled, hbusy]) he
    · exact step_of_await_of_reset ⟨req, pos, bit, hq, hd⟩ hready he
  exact ⟨_, hstep, State.blockReset_resetValues d { s with env := ms }, rfl, rfl, rfl⟩

/-! ### Event counts (70_reset_and_hazards.md R251) -/

/-- `cmd` is six events (40_framer.md R122). -/
@[simp] theorem cmdEvents_length (c : Byte) : (cmdEvents c).length = 6 := rfl

@[simp] theorem sentBytes_length (bytes : List Byte) (r : Nat) :
    (sentBytes bytes r).length = bytes.length * (r + 1) := by
  simp [sentBytes, Nat.mul_comm]

/-- `data` is the wait and the mode line, then four events for each byte sent (40_framer.md R124). -/
@[simp] theorem dataEvents_length (bytes : List Byte) (r : Nat) :
    (dataEvents bytes r).length = 2 + 4 * bytes.length * (r + 1) := by
  have hbytes : ((sentBytes bytes r).flatMap byteEvents).length = (sentBytes bytes r).length * 4 := by
    simp [List.length_flatMap, byteEvents]
  rw [dataEvents, List.length_append, hbytes, sentBytes_length, Nat.mul_comm _ 4, Nat.mul_assoc]
  rfl

/-- Settles O30: each request's events are those of its completion, and their lists have these lengths. -/
theorem eventCounts : Obligations.EventCounts := by
  intro s t hf hn
  refine ⟨?sendCmd, ?sendData, ?setWindow, ?writePixels, ?init, ?displayOn⟩
  case sendCmd =>
    intro b hr h
    simp [(sendCmdCompletes s b hr hf hn).busLog_eq h]
  case sendData =>
    intro p r hr h
    simp [(sendDataCompletes s p r hr hf hn).1.busLog_eq h]
  case setWindow =>
    intro x y w ht hr hgood h
    obtain ⟨hw, hh, hx, hy⟩ := (windowOk_iff _ _ _ _ _).1 hgood
    simp [(setWindowCompletes s x y w ht hr hf hn hw hh hx hy _ _ rfl rfl).busLog_eq h]
  case writePixels =>
    intro p r hr h
    rw [(writePixelsCompletes s p r hr hf hn).busLog_eq h, List.length_append, List.length_append, cmdEvents_length,
      dataEvents_length]
    omega
  case init =>
    intro hu h
    simp [(initCompletes s hu hf hn).busLog_eq h]
  case displayOn =>
    intro hr h
    simp [(displayOnCompletes s hr hf hn).busLog_eq h]

end Sys2Proof.Machine
